-- ==== Sys2Proof/Word.lean ====
section
/-! DEFINITION. The word types of the block (R7, R18) and their plainest conversions. -/

namespace Sys2Proof

/-- One byte: a frame byte, a character code, a function code (R7, R39). -/
abbrev Byte := BitVec 8

/-- A 16-bit quantity: a register address, a raw register value, a checksum (R7). -/
abbrev Half := BitVec 16

/-- A 32-bit interface word (R18). -/
abbrev Word := BitVec 32

/-- The 48-bit fixed-point value VALUE_MILLI (R7, R30). -/
abbrev Milli := BitVec 48

/-- `zext_32` of R9. -/
def zext32 {n : Nat} (v : BitVec n) : Word := v.setWidth 32

end Sys2Proof
end

