-- ==== Sys2Proof/Config.lean ====
section
/-! DEFINITION. The implementation parameters of R7, R40, R45 and R130, as plain data. They are fixed when the block
is built (R152); the state carries them and no step changes them (assumption 4). -/

namespace Sys2Proof

/-- A scale `num/den` (R8 item 6; SCALE_BITS is 16 each, R7). -/
structure Scale where
  num : BitVec 16
  den : BitVec 16
  deriving DecidableEq, Repr

/-- One register descriptor of P_REG_TABLE (R7). -/
structure Descriptor where
  address : Half
  name : String
  unit : String
  description : String
  readOnly : Bool
  scale : Option Scale
  deriving DecidableEq, Repr

/-- P_REG_TABLE: an ordered list of descriptors (R7). -/
abbrev RegTable := List Descriptor

/-- The open parameter P_DESC_MERGE (R130). -/
inductive DescMerge where
  | codeText
  | descriptor
  deriving DecidableEq, Repr

/-- The open parameter P_BUS_ENDIAN, the lane order of the platform bus (R45). -/
inductive BusEndian where
  | little
  | big
  deriving DecidableEq, Repr

/-- The parameters of one block. -/
structure Params where
  /-- P_IN_DEPTH, the number of input slots and frame-buffer bytes (R7, R31). -/
  inDepth : Nat
  /-- P_REG_TABLE (R7, R8, R36). -/
  regTable : RegTable
  /-- P_DESC_MERGE (R130). -/
  descMerge : DescMerge
  /-- P_BASE, where the platform puts offset 0 (R40); no rule depends on it. -/
  base : Nat
  /-- P_BUS_ENDIAN (R45); no rule depends on it. -/
  busEndian : BusEndian
  deriving DecidableEq, Repr

/-- ENTRY_SLOTS (R7). -/
def entrySlots : Nat := 128

/-- The largest legal P_IN_DEPTH, and its default (R7). -/
def maxInDepth : Nat := 1024

end Sys2Proof
end

