-- ==== Sys2Proof/Machine/Text.lean ====
section
/-! DEFINITION. Text: the renderings of R13, the text references of R12, the text ROM of R33 and the lookup tables of
R34. -/

namespace Sys2Proof.Machine

/-- The decimal digit characters (R13). -/
def decDigit (d : Nat) : Char := Char.ofNat (0x30 + d)

/-- The digits of `k` in decimal, most significant first, put before `acc`; `fuel` bounds the number of digits. -/
def decDigits : Nat → Nat → List Char → List Char
  | 0, _, acc => acc
  | fuel + 1, k, acc =>
    if k < 10 then decDigit k :: acc else decDigits fuel (k / 10) (decDigit (k % 10) :: acc)

/-- `dec(k)` of R13: unsigned decimal, no leading zeros, "0" for zero. -/
def dec (k : Nat) : String := String.ofList (decDigits (k + 1) k [])

/-- A lowercase hexadecimal digit (R13). -/
def hexLower (d : Nat) : Char := if d < 10 then Char.ofNat (0x30 + d) else Char.ofNat (0x61 + d - 10)

/-- An uppercase hexadecimal digit (R13). -/
def hexUpper (d : Nat) : Char := if d < 10 then Char.ofNat (0x30 + d) else Char.ofNat (0x41 + d - 10)

/-- The two characters of `HEX2(b)` (R13). -/
def hex2Chars (b : Byte) : List Char := [hexUpper (b.toNat / 16), hexUpper (b.toNat % 16)]

/-- `HEX2(b)` of R13: two uppercase digits, the high nibble first. -/
def hex2 (b : Byte) : String := String.ofList (hex2Chars b)

/-- `hex4(k)` of R13: four lowercase digits, zero-padded. -/
def hex4 (k : Half) : String :=
  String.ofList [hexLower (k.toNat / 4096), hexLower (k.toNat / 256 % 16), hexLower (k.toNat / 16 % 16),
    hexLower (k.toNat % 16)]

/-- An entry of the text ROM: a character sequence, or a template filled by R12. -/
inductive RomText where
  | text (t : String)
  | template (before after : String)
  deriving DecidableEq, Repr

/-- The error texts T0 to T17 (R33). -/
def errorTexts : List RomText :=
  [.text "No error", .text "Equipment overcurrent, short circuit", .text "Overload",
   .text "Low pressure (no pressure sensor)", .text "Overpressure", .text "Low pressure", .text "Overpressure",
   .text "Phase loss (power phase loss)", .text "Overheating", .text "Insufficient power",
   .text "Software current overload", .text "Communication failure", .text "Default", .text "Motor locked",
   .text "Motor phase loss", .text "Motor overspeed", .text "Memory failure (FLASH failure)",
   .text "Unknown error"]

/-- The status-command and measurement-range texts T18 to T27 (R33). -/
def codeTexts : List RomText :=
  [.text "invalid", .text "running", .text "stop", .text "error reset", .text "Unknown status",
   .text "6 bar", .text "10 bar", .text "16 bar", .text "25 bar", .template "Unknown (" ")"]

/-- The exception, function-name and remaining texts T28 to T42 (R33). -/
def frameTexts : List RomText :=
  [.text "Illegal Function", .text "Illegal Data Address", .text "Illegal Data Value",
   .text "Server Device Failure", .text "Read Holding Registers", .text "Write Single Register",
   .text "Error Response", .template "Unknown (" ")", .text "Unknown register", .text "unknown",
   .text "Modbus Error: ", .text "H", .text "L", .text "write", .text "unknown_0x"]

/-- The text ROM T0 to T42 (R33). -/
def textRom : List RomText := errorTexts ++ codeTexts ++ frameTexts

/-- A `TextRef` of R12: `T<n>`, or `TPL<n>(k)`. -/
inductive TextRef where
  | t (n : Nat)
  | tpl (n : Nat) (k : Nat)
  deriving DecidableEq, Repr

/-- The text-ROM index of a reference, as TEXT_ID and NAME_ID hold it (R25, R26, R30). -/
def TextRef.id : TextRef → Byte
  | .t n => BitVec.ofNat 8 n
  | .tpl n _ => BitVec.ofNat 8 n

/-- TEXT_ID of an entry with no text (R30). -/
def noText : Byte := 0xFF

/-- The characters of a ROM entry, a template filled with `dec(k)` (R12, R13). -/
def RomText.fill : RomText → Nat → String
  | .text t, _ => t
  | .template before after, k => before ++ dec k ++ after

/-- The characters of text-ROM entry `n`, a template filled with `k`; `none` where the ROM has no entry `n` (R33). -/
def renderId (n k : Nat) : Option String := textRom[n]?.map (·.fill k)

/-- `render(t)` of R12. -/
def render : TextRef → Option String
  | .t n => renderId n 0
  | .tpl n k => renderId n k

/-- ERRTXT (R34). -/
def errTxt (r : Half) : TextRef := if r.toNat ≤ 16 then .t r.toNat else .t 17

/-- CMDTXT (R34). -/
def cmdTxt (r : Half) : TextRef :=
  if r = 0 then .t 18 else if r = 1 then .t 19 else if r = 4 then .t 20 else if r = 17 then .t 21 else .t 22

/-- MRTXT (R34). -/
def mrTxt (r : Half) : TextRef :=
  if r = 6 then .t 23 else if r = 10 then .t 24 else if r = 16 then .t 25 else if r = 25 then .t 26
  else .tpl 27 r.toNat

/-- CARRIER (R34). -/
def carrierTxt (r : Half) : TextRef := if r = 72 then .t 39 else .t 40

/-- EXCTXT (R34). -/
def excTxt (c : Byte) : TextRef :=
  if c = 1 then .t 28 else if c = 2 then .t 29 else if c = 3 then .t 30 else if c = 4 then .t 31 else .t 17

/-- FNAME (R34, R102). -/
def fName (c : Byte) : TextRef :=
  if c = 3 then .t 32 else if c = 6 then .t 33 else if c = 131 then .t 34 else .tpl 35 c.toNat

end Sys2Proof.Machine
end

