-- ==== Sys2Proof/Machine/RegTab.lean ====
section
/-! DEFINITION. REGTAB, the register descriptor table: lookup (R36), what makes a table legal (R8), the fixture FIX20
of 95_test_vectors.md and the parameters State.reset is built with. -/

namespace Sys2Proof.Machine

/-- `lookup` among the descriptors from list position `j` on. -/
def lookupFrom (j : Nat) : RegTable → Half → Option (Nat × Descriptor)
  | [], _ => none
  | d :: rest, a => if d.address = a then some (j, d) else lookupFrom (j + 1) rest a

/-- `lookup(a)` of R36: the position and the descriptor of address `a`. -/
def lookup (tab : RegTable) (a : Half) : Option (Nat × Descriptor) := lookupFrom 0 tab a

/-- The catalogue set of R8 item 3. -/
def inCatalogue (a : Half) : Bool :=
  let n := a.toNat
  (1 ≤ n && n ≤ 7) || (0x10 ≤ n && n ≤ 0x22) || n == 0x1000 || n == 0x1001

/-- The five override registers with their names (R8 item 4). -/
def overrideNames : List (Half × String) :=
  [(0x0006, "error_code"), (0x0007, "status_code"), (0x0014, "carrier_frequency"),
   (0x0019, "measurement_range"), (0x1001, "status_command")]

/-- The names of R8 item 5. -/
def requiredNames : List String :=
  ["output_frequency", "output_current", "input_voltage", "temperature", "pressure"]

/-- R8 item 6: a scale, when present, has positive numerator and denominator. -/
def legalScale (d : Descriptor) : Bool :=
  match d.scale with
  | none => true
  | some sc => 1 ≤ sc.num.toNat && 1 ≤ sc.den.toNat

/-- R8 item 7: the name does not begin with `unknown_0x`. -/
def legalName (d : Descriptor) : Bool := !("unknown_0x".toList.isPrefixOf d.name.toList)

/-- R8: what every legal P_REG_TABLE satisfies. -/
def legalTable (tab : RegTable) : Bool :=
  decide (tab.map (·.address)).Nodup && decide (tab.map (·.name)).Nodup &&
  tab.length == 20 &&
  tab.all (fun d => inCatalogue d.address) &&
  overrideNames.all (fun p => tab.any (fun d => d.address == p.1 && d.name == p.2)) &&
  requiredNames.all (fun n => tab.any (fun d => d.name == n)) &&
  tab.all legalScale && tab.all legalName

/-- Legal parameters: a legal table (R8) and P_IN_DEPTH in 1..1024 (R7). -/
def legalParams (p : Params) : Bool :=
  1 ≤ p.inDepth && p.inDepth ≤ maxInDepth && legalTable p.regTable

/-- One row of FIX20: `unit` and `description` are empty there. -/
def fixtureRow (address : Half) (name : String) (scale : Option Scale) (readOnly : Bool) : Descriptor :=
  { address, name, unit := "", description := "", readOnly, scale }

/-- FIX20 (95_test_vectors.md section 1): the spec's test fixture, not the product table (assumption 4). -/
def fix20 : RegTable :=
  [fixtureRow 0x0001 "output_frequency" (some ⟨1, 10⟩) true,
   fixtureRow 0x0002 "output_current" none true,
   fixtureRow 0x0003 "input_voltage" none true,
   fixtureRow 0x0004 "temperature" none true,
   fixtureRow 0x0005 "pressure" (some ⟨1, 10⟩) true,
   fixtureRow 0x0006 "error_code" none true,
   fixtureRow 0x0007 "status_code" none true,
   fixtureRow 0x0010 "fixture_0x0010" (some ⟨1, 3⟩) false,
   fixtureRow 0x0011 "fixture_0x0011" (some ⟨1, 100⟩) false,
   fixtureRow 0x0012 "fixture_0x0012" (some ⟨1, 2000⟩) false,
   fixtureRow 0x0013 "fixture_0x0013" (some ⟨1000, 1⟩) false,
   fixtureRow 0x0014 "carrier_frequency" none false,
   fixtureRow 0x0015 "fixture_0x0015" none false,
   fixtureRow 0x0016 "fixture_0x0016" none false,
   fixtureRow 0x0019 "measurement_range" none false,
   fixtureRow 0x0020 "fixture_0x0020" none false,
   fixtureRow 0x0021 "fixture_0x0021" none false,
   fixtureRow 0x0022 "fixture_0x0022" none false,
   fixtureRow 0x1000 "fixture_0x1000" none false,
   fixtureRow 0x1001 "status_command" none false]

/-- The parameters of State.reset: the defaults of R7 and, for the open parameters, the choices of assumptions 4
and 5. DESIGN CHOICE: no statement about the machine rests on them but those that name State.reset. -/
def defaultParams : Params :=
  { inDepth := 1024, regTable := fix20, descMerge := .codeText, base := 0, busEndian := .little }

end Sys2Proof.Machine
end

