-- ==== Sys2Proof/Machine/State.lean ====
section
/-! DEFINITION. The state of the block as plain data (10_state.md, 60_exceptions.md R137 and R138), and the state after
reset (R151). INVENTORY.md lists every field with the rule that names it. -/

namespace Sys2Proof.Machine

/-- Why a step stops with a fault (R137). A fault changes no state: the step answers no state at all. -/
inductive Fault where
  /-- READ_UNWRITTEN: a host read of a register that holds NONE, after reset or after a command that did not write it.
  The spec's own outcome (R17, R137, R139, R151). Raised by `busRead`; safe. -/
  | readUnwritten
  /-- INPUT_UNWRITTEN: a command reads an input cell that holds NONE. The spec's own outcome (R79, R109, R137, R140).
  Raised by `ingress`, `withInputSlots` and `execRegDecode`; safe. -/
  | inputUnwritten
  deriving DecidableEq, Repr

/-- Why a step is refused (R138). A refusal changes no state: the step answers no state at all. -/
inductive Refusal where
  /-- An instruction that has no meaning yet. Raised by no arm of `exec`; safe. -/
  | notModelled (mnemonic : String)
  /-- BUS_ACCESS: width not 32 bits, or offset not a multiple of 4. Raised by `busAccess` (R47, R138); safe. -/
  | busAccess
  /-- RESERVED_OFFSET: an access to a reserved offset. Raised by `busAccess` (R18, R51, R138); safe. -/
  | reservedOffset
  /-- WRITE_READ_ONLY: a write to a read-only register. Raised by `busWrite` (R51, R138); safe. -/
  | writeReadOnly
  /-- READ_WRITE_ONLY: a read of CMD. Raised by `busRead` (R19, R138); safe. -/
  | readWriteOnly
  /-- IN_LEN_TOO_LARGE: IN_LEN.LEN above P_IN_DEPTH. Raised by `withInputSlots` (R22, R79, R138); safe. -/
  | inLenTooLarge
  /-- The model's own: a host access while reset is asserted, which "the block accepts no host access" covers
  (R151; assumption 10). Raised by `hostEvent`; safe. -/
  | heldInReset
  /-- The model's own: a stage row (formats IN_MODE, FRAME, REGADDR) outside a running command, where the spec has no
  such stage (R37; assumption 7). Raised by `withRunning`; no step of the machine reaches it; safe. -/
  | outsideCommand
  /-- The model's own: a decoder variant whose selection condition of R70 does not hold, so that no decoder selects it
  (assumption 7). Raised by `appendKnown` and `execUnknown`; no step of the machine reaches it; safe. -/
  | illFormed
  deriving DecidableEq, Repr

/-- STATUS.CODE (R20). The reserved codes 10 to 15 are never written (R74), so they have no constructor. -/
inductive StatusCode where
  | idle
  | ok
  | inputUnsupported
  | inputOddLength
  | inputBadDigit
  | inputRange
  | frameTooShort
  | checksum
  | payloadOverrun
  | badCommand
  deriving DecidableEq, Repr

/-- The four commands (R59), by the row that is running; `fail` asks it for Kept(op) (R135). -/
inductive CmdOp where
  | decodeFrame
  | crcCheck
  | regDecode
  | reserved
  deriving DecidableEq, Repr

/-- KIND of an entry (R30, R118). The reserved value 7 is never written (R74), so it has no constructor. -/
inductive EntryKind where
  | generic
  | errorCode
  | statusFlags
  | carrierFreq
  | statusCmd
  | measRange
  | unknown
  deriving DecidableEq, Repr

/-- An entry record (R118). -/
structure Entry where
  kind : EntryKind
  writeOp : Bool
  readOnly : Bool
  waterShortage : Bool
  running : Bool
  textId : Byte
  descIndex : Byte
  address : Half
  raw : Half
  valueMilli : Milli
  deriving DecidableEq, Repr

/-- The exception fields DECODE_FRAME collects (`exc` of R99). -/
structure ExcInfo where
  valid : Bool
  code : Byte
  text : Byte
  deriving DecidableEq, Repr

/-- No exception response: valid 0, code 0, text 0xFF (R26, R99). -/
def ExcInfo.none : ExcInfo := { valid := false, code := 0, text := noText }

/-- What the engine holds while a command runs (R37). -/
structure Working where
  /-- the running command -/
  op : CmdOp
  /-- the normalised frame `F`; its length is `L` -/
  frame : List Byte
  /-- the CRC accumulator ACC (R88) -/
  acc : Half
  /-- the router's position index `i` -/
  pos : Nat
  /-- the entries built so far, oldest first -/
  entries : List Entry
  /-- the exception fields collected so far (R99) -/
  exc : ExcInfo
  /-- `raw` of the running RegDecode (R119) -/
  raw : Half
  /-- `w`, the write flag of the running RegDecode (R119) -/
  write : Bool
  deriving DecidableEq, Repr

/-- The engine at the start of a command: ACC as R88 sets it, everything else empty (assumption 8). -/
def Working.start (op : CmdOp) : Working :=
  { op, frame := [], acc := 0xFFFF, pos := 0, entries := [], exc := .none, raw := 0, write := false }

/-- The memory of the block: the windows ENTRY, IN_BUF and FRAME_BUF of IFACE (R18, R39), whole 32-bit words by their
byte offset (R45, R47). An offset that is not listed holds NONE (R17). Canonical form: offsets strictly rising. -/
structure Memory where
  cells : List (Nat × Word)
  deriving DecidableEq, Repr

/-- Memory with every cell holding NONE. -/
def Memory.empty : Memory := { cells := [] }

/-- The host-interface registers of R18, by name. -/
inductive RegName where
  | cmd
  | status
  | inMode
  | inLen
  | regAddr
  | regRaw
  | slaveAddr
  | func
  | exc
  | frameLen
  | crcCalc
  | crcRecv
  | entryCount
  /-- word `w` of ENTRY[k] -/
  | entry (k w : Nat)
  | inBuf (k : Nat)
  | frameBuf (k : Nat)
  | reserved
  deriving DecidableEq, Repr

/-- One host access to IFACE (R40, R47): the offset is 16 bits, the width is in bits. -/
inductive BusAccess where
  | read (offset : BitVec 16) (width : Nat)
  | write (offset : BitVec 16) (width : Nat) (data : Word)
  deriving DecidableEq, Repr

/-- What the outside does to the block: a host access, or an edge of the reset signal (R151). -/
inductive HostEvent where
  | access (a : BusAccess)
  | assertReset
  | releaseReset
  deriving DecidableEq, Repr

/-- The state of the block, with the host's accesses not yet taken. -/
structure State where
  /-- the parameters the block was built with (R7, R152) -/
  params : Params
  /-- the host's accesses in program order and the reset edges, the next one first (R54; assumption 2) -/
  pending : List HostEvent
  /-- the words the host's reads returned, newest first (R134; assumption 2) -/
  readLog : List Word
  /-- reset is asserted (R149, R151) -/
  resetHeld : Bool
  /-- STATUS.CODE (R20) -/
  status : StatusCode
  /-- IN_MODE.MODE (R21); `none` is NONE -/
  inMode : Option (BitVec 2)
  /-- IN_LEN.LEN (R22) -/
  inLen : Option (BitVec 16)
  /-- REG_ADDR (R23) -/
  regAddr : Option Half
  /-- REG_RAW (R23) -/
  regRaw : Option Half
  /-- SLAVE_ADDR (R24) -/
  slaveAddr : Option Word
  /-- FUNC (R25) -/
  func : Option Word
  /-- EXC (R26) -/
  exc : Option Word
  /-- FRAME_LEN (R27) -/
  frameLen : Option Word
  /-- CRC_CALC (R28) -/
  crcCalc : Option Word
  /-- CRC_RECV (R28) -/
  crcRecv : Option Word
  /-- ENTRY_COUNT (R29) -/
  entryCount : Option Word
  /-- ENTRY[k], IN_BUF[k] and FRAME_BUF[k] (R27, R30, R31) -/
  mem : Memory
  /-- what the engine holds while a command runs (R37) -/
  engine : Option Working
  deriving DecidableEq, Repr

/-- The block built with parameters `p`, right after reset (R151). -/
def State.resetWith (p : Params) : State :=
  { params := p, pending := [], readLog := [], resetHeld := false, status := .idle,
    inMode := none, inLen := none, regAddr := none, regRaw := none,
    slaveAddr := none, func := none, exc := none, frameLen := none, crcCalc := none, crcRecv := none,
    entryCount := none, mem := .empty, engine := none }

/-- The machine right after reset (R151), built with the parameters of assumptions 4 and 5. -/
def State.reset : State := State.resetWith defaultParams

/-- The three outcomes of a transition of this machine. -/
abbrev Result := Host.Outcome State Fault Refusal

end Sys2Proof.Machine
end

