-- ==== Sys2Proof/Machine/Ops.lean ====
section
/-! DEFINITION. The named operations over memory, the output registers and the running command. `failCommand` is how a
command ends with a typed failure (R135): the block's only exception-like event, with no entry and no return (R142,
R143). -/

namespace Sys2Proof.Machine

/-! ### Memory -/

/-- The word of the first cell at offset `o`. -/
def readCells : List (Nat × Word) → Nat → Option Word
  | [], _ => none
  | c :: rest, o => if c.1 = o then some c.2 else readCells rest o

/-- Put a word at offset `o`, keeping offsets strictly rising. -/
def writeCells (o : Nat) (v : Word) : List (Nat × Word) → List (Nat × Word)
  | [] => [(o, v)]
  | c :: rest =>
    if o < c.1 then (o, v) :: c :: rest
    else if o = c.1 then (o, v) :: rest
    else c :: writeCells o v rest

/-- The word at offset `o`; `none` is NONE (R17). -/
def Memory.read (m : Memory) (o : Nat) : Option Word := readCells m.cells o

/-- Write the word at offset `o`. -/
def Memory.write (m : Memory) (o : Nat) (v : Word) : Memory := { cells := writeCells o v m.cells }

/-- Write consecutive words from offset `o` on. -/
def Memory.writeWords (m : Memory) (o : Nat) : List Word → Memory
  | [] => m
  | v :: rest => (m.write o v).writeWords (o + 4) rest

/-- Make every cell whose offset satisfies `p` hold NONE. -/
def Memory.clear (m : Memory) (p : Nat → Bool) : Memory := { cells := m.cells.filter (fun c => !p c.1) }

/-- The canonical form: offsets strictly rising. An unlisted cell holds NONE, which no listed cell holds. -/
def Memory.wf (m : Memory) : Bool := decide (m.cells.Pairwise (fun a b => a.1 < b.1))

/-- The offset of word `w` of ENTRY[k] (R18). -/
def entryOffset (k w : Nat) : Nat := 0x1000 + 16 * k + 4 * w

/-- The offset of IN_BUF[k] (R18). -/
def inBufOffset (k : Nat) : Nat := 0x2000 + 4 * k

/-- The offset of FRAME_BUF[k] (R18). -/
def frameBufOffset (k : Nat) : Nat := 0x4000 + 4 * k

/-- The offsets of the ENTRY window (R18). -/
def inEntryWindow (o : Nat) : Bool := 0x1000 ≤ o && o < 0x1800

/-- The offsets of the FRAME_BUF window and above (R18). -/
def inFrameWindow (o : Nat) : Bool := 0x4000 ≤ o

/-- The offsets of the two output windows. -/
def inOutputWindow (o : Nat) : Bool := inEntryWindow o || inFrameWindow o

/-! ### Output cells -/

/-- Every output cell but STATUS holds NONE: the first action of every command (R98). -/
def State.clearOutputs (s : State) : State :=
  { s with slaveAddr := none, func := none, exc := none, frameLen := none, crcCalc := none, crcRecv := none,
           entryCount := none, mem := s.mem.clear inOutputWindow }

/-- Every output cell outside Kept(op) holds NONE (R135): CRC_CHECK keeps FRAME_LEN, FRAME_BUF, CRC_CALC and CRC_RECV
as they are, every other command keeps nothing. -/
def State.clearUnkept (s : State) : CmdOp → State
  | .crcCheck =>
    { s with slaveAddr := none, func := none, exc := none, entryCount := none, mem := s.mem.clear inEntryWindow }
  | _ => s.clearOutputs

/-! ### The running command -/

/-- Start a command (R98): the outputs hold NONE and the engine's own state comes into being (R37). -/
def State.beginCommand (s : State) (op : CmdOp) : State :=
  { s.clearOutputs with engine := some (.start op) }

/-- End a command with STATUS.CODE = OK (R98); the engine's own state is gone (R37). -/
def State.endOk (s : State) : State := { s with status := .ok, engine := none }

/-- `fail c` of R135, in a command `op`: the outputs outside Kept(op) hold NONE, STATUS.CODE is `c`, the command has
ended. Input registers are not touched. -/
def State.failWith (s : State) (op : CmdOp) (c : StatusCode) : State :=
  { s.clearUnkept op with status := c, engine := none }

/-- Run a stage of the running command; outside a command there is no stage to run (assumption 7). -/
def withRunning (s : State) (k : Working → Result) : Result :=
  match s.engine with
  | some w => k w
  | none => .refused .outsideCommand

/-- `fail c` as a stage: the running command ends (R135). -/
def failCommand (c : StatusCode) (s : State) : Result :=
  withRunning s fun w => .next (s.failWith w.op c)

/-- Go on with the next stage of a command, unless the command has ended (R140: the first check that fails ends it). -/
def Result.andThen (r : Result) (k : State → Result) : Result :=
  match r with
  | .next s =>
    match s.engine with
    | none => .next s
    | some _ => k s
  | .fault f => .fault f
  | .refused x => .refused x

/-- The engine's own state replaced. -/
def State.setEngine (s : State) (w : Working) : State := { s with engine := some w }

/-- One more entry in the running command's list (`entries.append` of R104, R105). -/
def State.pushEntry (s : State) (w : Working) (e : Entry) : State :=
  s.setEngine { w with entries := w.entries ++ [e] }

end Sys2Proof.Machine
end

