-- ==== Sys2Proof/Machine/Flags.lean ====
section
/-! DEFINITION. The status word, the flags and the packing of the output words (R20, R24 to R30, R99, R111). -/

namespace Sys2Proof.Machine

/-- The number of a STATUS.CODE (R20). -/
def StatusCode.code : StatusCode → BitVec 4
  | .idle => 0
  | .ok => 1
  | .inputUnsupported => 2
  | .inputOddLength => 3
  | .inputBadDigit => 4
  | .inputRange => 5
  | .frameTooShort => 6
  | .checksum => 7
  | .payloadOverrun => 8
  | .badCommand => 9

/-- The STATUS word: CODE in [3:0], the rest reads 0 (R20). -/
def statusWord (c : StatusCode) : Word := zext32 c.code

/-- A flag as one bit. -/
def bit (b : Bool) : BitVec 1 := BitVec.ofBool b

/-- The KIND number of an entry (R30). -/
def EntryKind.code : EntryKind → BitVec 3
  | .generic => 0
  | .errorCode => 1
  | .statusFlags => 2
  | .carrierFreq => 3
  | .statusCmd => 4
  | .measRange => 5
  | .unknown => 6

/-- The SLAVE_ADDR word (R24). -/
def slaveWord (slave : Byte) : Word := zext32 slave

/-- The FUNC word: NAME_ID in [15:8], FC in [7:0] (R25, R99, R102). -/
def funcWord (fc : Byte) : Word := zext32 ((fName fc).id ++ fc)

/-- The EXC word: TEXT_ID in [23:16], CODE in [15:8], VALID in [0] (R26, R99). -/
def excWord (e : ExcInfo) : Word := zext32 (e.text ++ e.code ++ (0 : BitVec 7) ++ bit e.valid)

/-- The FRAME_LEN word (R27): bits [15:0] are the length. -/
def lenWord (f : List Byte) : Word := zext32 (BitVec.ofNat 16 f.length)

/-- The ENTRY_COUNT word (R29): bits [7:0] are the number of entries. -/
def countWord (es : List Entry) : Word := zext32 (BitVec.ofNat 8 es.length)

/-- Word 0 of an entry (R30, R111). -/
def entryW0 (e : Entry) : Word :=
  zext32 (e.descIndex ++ e.textId ++ (0 : BitVec 1) ++ bit e.running ++ bit e.waterShortage ++ bit e.readOnly ++
    bit e.writeOp ++ e.kind.code)

/-- Word 1 of an entry (R30, R111). -/
def entryW1 (e : Entry) : Word := e.raw ++ e.address

/-- Word 2 of an entry (R30, R111). -/
def entryW2 (e : Entry) : Word := e.valueMilli.extractLsb' 0 32

/-- Word 3 of an entry (R30, R111). -/
def entryW3 (e : Entry) : Word := zext32 (e.valueMilli.extractLsb' 32 16)

/-- `Pack(e)` of R111. -/
def pack (e : Entry) : List Word := [entryW0 e, entryW1 e, entryW2 e, entryW3 e]

/-- The words of the ENTRY window for a list of entries: ENTRY[k] is entry `k` (R99, R111). -/
def entryWords (es : List Entry) : List Word := es.flatMap pack

/-- The words of the FRAME_BUF window for a frame (R27, R99). -/
def frameWords (f : List Byte) : List Word := f.map zext32

/-! ### Writing outputs -/

/-- FRAME_LEN and FRAME_BUF take the frame (R99, R108). -/
def State.publishFrame (s : State) (f : List Byte) : State :=
  { s with frameLen := some (lenWord f), mem := s.mem.writeWords (frameBufOffset 0) (frameWords f) }

/-- ENTRY_COUNT and ENTRY take the entries (R99, R109). -/
def State.publishEntries (s : State) (es : List Entry) : State :=
  { s with entryCount := some (countWord es), mem := s.mem.writeWords (entryOffset 0 0) (entryWords es) }

/-- SLAVE_ADDR, FUNC and EXC take the header and the exception fields (R99). -/
def State.publishHeader (s : State) (slave fc : Byte) (e : ExcInfo) : State :=
  { s with slaveAddr := some (slaveWord slave), func := some (funcWord fc), exc := some (excWord e) }

end Sys2Proof.Machine
end

