-- ==== Sys2Proof/Machine/Operands.lean ====
section
/-! DEFINITION. Operands: reads of the frame (R42, R43, R46, R66) and of the input slots (R48, R79). -/

namespace Sys2Proof.Machine

/-- `FrameByte(o)` of R46; `none` is the overrun `o >= L`. -/
def frameByte (f : List Byte) (o : Nat) : Option Byte := f[o]?

/-- Two bytes as a 16-bit number, the first in the high half (`a ++ b` of R9). -/
def joinBytes (hi lo : Byte) : Half := hi ++ lo

/-- `FrameBE16(o)` of R46: the high byte at `o` (R43). -/
def frameBE16 (f : List Byte) (o : Nat) : Option Half :=
  match frameByte f o, frameByte f (o + 1) with
  | some hi, some lo => some (joinBytes hi lo)
  | _, _ => none

/-- `FrameCrcLE()` of R46: the low byte at `L-2` (R42). -/
def frameCrcLE (f : List Byte) : Option Half :=
  match frameByte f (f.length - 1), frameByte f (f.length - 2) with
  | some hi, some lo => some (joinBytes hi lo)
  | _, _ => none

/-- Go on with an operand the frame gave; a read past the frame fails ERR_PAYLOAD_OVERRUN (R46). -/
def withOperand {α : Type} (s : State) (x : Option α) (k : α → Result) : Result :=
  match x with
  | some v => k v
  | none => failCommand .payloadOverrun s

/-- `register_count` of R67. -/
def registerCount (byteCount : Byte) : Nat := byteCount.toNat / 2

/-- The logical address of position `i` of a 0x03 frame (R62, R66). -/
def logicalAddress (i : Nat) : Half := BitVec.ofNat 16 (1 + i)

/-- Bits 7..0 of a slot, which is all that BYTES and HEX modes read (R31). -/
def slotByte (v : Word) : Byte := v.setWidth 8

/-- The input slots `IN_BUF[k .. k+n-1]`; `none` where one of them holds NONE. -/
def inputSlots (m : Memory) (k : Nat) : Nat → Option (List Word)
  | 0 => some []
  | n + 1 =>
    match m.read (inBufOffset k), inputSlots m (k + 1) n with
    | some v, some rest => some (v :: rest)
    | _, _ => none

/-- The checks of R79 that come before the input decoders, in order, and the slots they read. -/
def withInputSlots (s : State) (k : List Word → Result) : Result :=
  match s.inLen with
  | none => .fault .inputUnwritten
  | some n =>
    if s.params.inDepth < n.toNat then .refused .inLenTooLarge
    else match inputSlots s.mem 0 n.toNat with
      | none => .fault .inputUnwritten
      | some vs => k vs

end Sys2Proof.Machine
end

