-- ==== Sys2Proof/Machine/Crc.lean ====
section
/-! DEFINITION. The CRC-16/Modbus checker (41_crc.md). -/

namespace Sys2Proof.Machine

/-- `CrcBit(acc)` of R89. -/
def crcBit (acc : Half) : Half := if acc.getLsbD 0 then (acc >>> 1) ^^^ 0xA001 else acc >>> 1

/-- `CrcBit` repeated. -/
def crcBits : Nat → Half → Half
  | 0, acc => acc
  | n + 1, acc => crcBits n (crcBit acc)

/-- `CrcByte(acc, b)` of R90. -/
def crcByte (acc : Half) (b : Byte) : Half := crcBits 8 (acc ^^^ b.setWidth 16)

/-- `CrcByte` over bytes in index order. -/
def crcBytes (acc : Half) (bs : List Byte) : Half := bs.foldl crcByte acc

/-- The body `F[0..L-3]`, which the CRC covers (R61, R91). -/
def frameBody (f : List Byte) : List Byte := f.take (f.length - 2)

/-- `CrcCalc(F, L)` of R91. -/
def crcCalc (f : List Byte) : Half := crcBytes 0xFFFF (frameBody f)

/-- The two checksum bytes of a CRC, the low byte first (R42, R95). -/
def crcTail (c : Half) : List Byte := [c.extractLsb' 0 8, c.extractLsb' 8 8]

/-- `CrcVerify(F, L)` of R93, as a stage of the running command. -/
def crcVerify (s : State) : Result :=
  withRunning s fun w =>
    if w.frame.length < 2 then failCommand .checksum s
    else withOperand s (frameCrcLE w.frame) fun recv =>
      let computed := crcCalc w.frame
      let t := { s with crcCalc := some (zext32 computed), crcRecv := some (zext32 recv),
                        engine := some { w with acc := computed } }
      if computed = recv then .next t else failCommand .checksum t

end Sys2Proof.Machine
end

