-- ==== Sys2Proof/Machine/RegDecode.lean ====
section
/-! DEFINITION. The register value decoder (43_regdecode.md): the seven variants, and RegDecode. -/

namespace Sys2Proof.Machine

/-- `RoundHalfUp(p, q)` of R121. -/
def roundHalfUp (p q : Nat) : Nat := (2 * p + q) / (2 * q)

/-- The value times 1000 of a raw value under an optional scale (R120). -/
def scaledMilli (scale : Option Scale) (raw : Half) : Nat :=
  match scale with
  | none => raw.toNat * 1000
  | some sc => roundHalfUp (raw.toNat * sc.num.toNat * 1000) sc.den.toNat

/-- `base` of R119. Its kind is set by each variant. -/
def baseEntry (j : Nat) (d : Descriptor) (a raw : Half) (w : Bool) : Entry :=
  { kind := .generic, writeOp := w, readOnly := d.readOnly, waterShortage := false, running := false,
    textId := noText, descIndex := BitVec.ofNat 8 j, address := a, raw, valueMilli := 0 }

/-- Generic of R120. -/
def genericEntry (b : Entry) (d : Descriptor) : Entry :=
  { b with kind := .generic, valueMilli := BitVec.ofNat 48 (scaledMilli d.scale b.raw) }

/-- ErrorCode of R122. -/
def errorCodeEntry (b : Entry) : Entry := { b with kind := .errorCode, textId := (errTxt b.raw).id }

/-- StatusFlags of R123. -/
def statusFlagsEntry (b : Entry) : Entry :=
  { b with kind := .statusFlags, waterShortage := b.raw.getLsbD 0, running := b.raw.getLsbD 1 }

/-- Carrier of R124. -/
def carrierEntry (b : Entry) : Entry := { b with kind := .carrierFreq, textId := (carrierTxt b.raw).id }

/-- StatusCmd of R125. -/
def statusCmdEntry (b : Entry) : Entry := { b with kind := .statusCmd, textId := (cmdTxt b.raw).id }

/-- MeasRange of R126. -/
def measRangeEntry (b : Entry) : Entry := { b with kind := .measRange, textId := (mrTxt b.raw).id }

/-- Unknown of R127. -/
def unknownEntry (a raw : Half) : Entry :=
  { kind := .unknown, writeOp := false, readOnly := false, waterShortage := false, running := false,
    textId := noText, descIndex := 0xFF, address := a, raw, valueMilli := BitVec.ofNat 48 (raw.toNat * 1000) }

/-- A variant for an address that has a descriptor: the entry it makes from `base` joins the entry list (R119). -/
def appendKnown (s : State) (a : Half) (f : Entry → Descriptor → Entry) : Result :=
  withRunning s fun w =>
    match lookup s.params.regTable a with
    | some (j, d) => .next (s.pushEntry w (f (baseEntry j d a w.raw w.write) d))
    | none => .refused .illFormed

/-- UNKNOWN (R127). -/
def execUnknown (a : Half) (s : State) : Result :=
  withRunning s fun w =>
    match lookup s.params.regTable a with
    | some _ => .refused .illFormed
    | none => .next (s.pushEntry w (unknownEntry a w.raw))

/-- ERROR_CODE (R122). -/
def execErrorCode (s : State) : Result := appendKnown s 0x0006 fun b _ => errorCodeEntry b

/-- STATUS_FLAGS (R123). -/
def execStatusFlags (s : State) : Result := appendKnown s 0x0007 fun b _ => statusFlagsEntry b

/-- CARRIER_FREQ (R124). -/
def execCarrierFreq (s : State) : Result := appendKnown s 0x0014 fun b _ => carrierEntry b

/-- MEAS_RANGE (R126). -/
def execMeasRange (s : State) : Result := appendKnown s 0x0019 fun b _ => measRangeEntry b

/-- STATUS_CMD (R125). -/
def execStatusCmd (s : State) : Result := appendKnown s 0x1001 fun b _ => statusCmdEntry b

/-- GENERIC (R120). DESIGN CHOICE (assumption 7), safe: at a described override address, where R70 does not select
GENERIC and no decoder gives it, this appends a GENERIC entry too. -/
def execGeneric (a : Half) (s : State) : Result := appendKnown s a genericEntry

/-- The variant an address selects, in the order of R70 and R119: the absent address first, then the overrides. -/
def runVariant (a : Half) (s : State) : Result :=
  match lookup s.params.regTable a with
  | none => execUnknown a s
  | some _ =>
    if a = 0x0006 then execErrorCode s
    else if a = 0x0007 then execStatusFlags s
    else if a = 0x0014 then execCarrierFreq s
    else if a = 0x0019 then execMeasRange s
    else if a = 0x1001 then execStatusCmd s
    else execGeneric a s

/-- `entries.append(RegDecode(a, raw, w))` of R104, R105 and R109. -/
def runRegDecode (a raw : Half) (write : Bool) (s : State) : Result :=
  withRunning s fun w => runVariant a (s.setEngine { w with raw, write })

/-- OVERRIDE of R35: the entry an address with a descriptor gets. -/
def knownEntry (b : Entry) (d : Descriptor) : Entry :=
  if b.address = 0x0006 then errorCodeEntry b
  else if b.address = 0x0007 then statusFlagsEntry b
  else if b.address = 0x0014 then carrierEntry b
  else if b.address = 0x0019 then measRangeEntry b
  else if b.address = 0x1001 then statusCmdEntry b
  else genericEntry b d

/-- `RegDecode(a, raw, w)` of R119 as a function of its operands and REGTAB. The machine runs `runRegDecode`;
statements name this function for the entry that run appends. -/
def regDecodeEntry (tab : RegTable) (a raw : Half) (w : Bool) : Entry :=
  match lookup tab a with
  | none => unknownEntry a raw
  | some (j, d) => knownEntry (baseEntry j d a raw w) d

end Sys2Proof.Machine
end

