-- ==== Sys2Proof/Machine/Handlers.lean ====
section
/-! DEFINITION. The frame handlers RHR, WSR, EXC and OTHER, and the router (42_dispatch.md). -/

namespace Sys2Proof.Machine

/-- One position of the RHR loop (R104): the value at `3 + 2i`, the address `0x0001 + i`, one entry. -/
def rhrPosition (s : State) : Result :=
  withRunning s fun w =>
    withOperand s (frameBE16 w.frame (3 + 2 * w.pos)) fun raw =>
      Result.andThen (runRegDecode (logicalAddress w.pos) raw false s) fun t =>
        withRunning t fun v => .next (t.setEngine { v with pos := v.pos + 1 })

/-- The RHR loop over the remaining positions. -/
def rhrLoop : Nat → State → Result
  | 0, s => .next s
  | n + 1, s => Result.andThen (rhrPosition s) (rhrLoop n)

/-- RHR (R104). -/
def execRhr (s : State) : Result :=
  withRunning s fun w =>
    withOperand s (frameByte w.frame 2) fun bc =>
      rhrLoop (registerCount bc) (s.setEngine { w with pos := 0, exc := .none })

/-- WSR (R105): both reads come before the lookup; an unknown address adds no entry. -/
def execWsr (s : State) : Result :=
  withRunning s fun w =>
    withOperand s (frameBE16 w.frame 2) fun a =>
      withOperand s (frameBE16 w.frame 4) fun raw =>
        let t := s.setEngine { w with exc := .none }
        match lookup s.params.regTable a with
        | none => .next t
        | some _ => runRegDecode a raw true t

/-- EXC (R106). -/
def execExc (s : State) : Result :=
  withRunning s fun w =>
    withOperand s (frameByte w.frame 2) fun ec =>
      .next (s.setEngine { w with exc := { valid := true, code := ec, text := (excTxt ec).id } })

/-- OTHER (R107): nothing beyond the header is read, EXC.VALID is 0. DESIGN CHOICE (assumption 7), safe: the same for
the function codes of the other handlers, with which no decoder gives this row. -/
def execOther (_fc : Byte) (s : State) : Result :=
  withRunning s fun w => .next (s.setEngine { w with exc := .none })

/-- The handler a function code selects, in the order of R69. -/
def runHandler (fc : Byte) (s : State) : Result :=
  if fc = 0x03 then execRhr s
  else if fc = 0x06 then execWsr s
  else if fc = 0x83 then execExc s
  else execOther fc s

/-- The router (R101, R103): it dispatches on `F[1]` alone. -/
def route (s : State) : Result :=
  withRunning s fun w => withOperand s (frameByte w.frame 1) fun fc => runHandler fc s

end Sys2Proof.Machine
end

