-- ==== Sys2Proof/Machine/Ingress.lean ====
section
/-! DEFINITION. The ingress stage (40_ingress.md): the input decoders IN_BYTES, IN_HEX, IN_WORDS and IN_RESERVED. -/

namespace Sys2Proof.Machine

/-- The whitespace set WS of HEX mode (R81). -/
def isSpace (c : Byte) : Bool :=
  c == 0x09 || c == 0x0A || c == 0x0B || c == 0x0C || c == 0x0D || c == 0x20 || c == 0xA0

/-- `hexval(c)` of R82. -/
def hexval (c : Byte) : Option Byte :=
  if 0x30 ≤ c.toNat ∧ c.toNat ≤ 0x39 then some (c - 0x30)
  else if 0x41 ≤ c.toNat ∧ c.toNat ≤ 0x46 then some (c - 0x41 + 10)
  else if 0x61 ≤ c.toNat ∧ c.toNat ≤ 0x66 then some (c - 0x61 + 10)
  else none

/-- The digit values of some characters; `none` where one is no hex digit. -/
def hexvals : List Byte → Option (List Byte)
  | [] => some []
  | c :: rest =>
    match hexval c, hexvals rest with
    | some d, some ds => some (d :: ds)
    | _, _ => none

/-- Digit values joined in pairs, the first the high nibble (R83). -/
def pairDigits : List Byte → List Byte
  | hi :: lo :: rest => ((hi <<< 4) ||| lo) :: pairDigits rest
  | _ => []

/-- The characters `D` of HEX mode: the slots' low bytes without whitespace (R83). -/
def hexChars (vs : List Word) : List Byte := (vs.map slotByte).filter (fun c => !isSpace c)

/-- An integer element outside [0,255] (R84). -/
def outOfRange (v : Word) : Bool := v.toInt < 0 || 255 < v.toInt

/-- The normalised frame is fixed from here on (R79). -/
def State.setFrame (s : State) (w : Working) (f : List Byte) : State := s.setEngine { w with frame := f }

/-- IN_BYTES (R80). -/
def execInBytes (s : State) : Result :=
  withRunning s fun w => withInputSlots s fun vs => .next (s.setFrame w (vs.map slotByte))

/-- IN_HEX (R83): the odd-length test comes before the digit test. -/
def execInHex (s : State) : Result :=
  withRunning s fun w => withInputSlots s fun vs =>
    if (hexChars vs).length % 2 = 1 then failCommand .inputOddLength s
    else match hexvals (hexChars vs) with
      | none => failCommand .inputBadDigit s
      | some ds => .next (s.setFrame w (pairDigits ds))

/-- IN_WORDS (R84). -/
def execInWords (s : State) : Result :=
  withRunning s fun w => withInputSlots s fun vs =>
    if vs.any outOfRange then failCommand .inputRange s
    else .next (s.setFrame w (vs.map slotByte))

/-- IN_RESERVED (R85): neither IN_LEN nor IN_BUF is read. -/
def execInReserved (s : State) : Result := failCommand .inputUnsupported s

/-- The input decoder a mode selects (R71, R79). -/
def runInputDecoder (m : BitVec 2) (s : State) : Result :=
  match m.toNat with
  | 0 => execInBytes s
  | 1 => execInHex s
  | 2 => execInWords s
  | _ => execInReserved s

/-- `Ingress()` of R79, as a stage of the running command. -/
def ingress (s : State) : Result :=
  match s.inMode with
  | none => .fault .inputUnwritten
  | some m => runInputDecoder m s

end Sys2Proof.Machine
end

