-- ==== Sys2Proof/Machine/Commands.lean ====
section
/-! DEFINITION. The four host commands (42_dispatch.md R98, R99, R108 to R110), each one atomic step built from its
stages. -/

namespace Sys2Proof.Machine

/-- The length test of DECODE_FRAME (R100). -/
def lengthTest (s : State) : Result :=
  withRunning s fun w => if w.frame.length < 4 then failCommand .frameTooShort s else .next s

/-- The output assembly that ends a successful DECODE_FRAME (R99). -/
def finishDecode (s : State) : Result :=
  withRunning s fun w =>
    withOperand s (frameByte w.frame 0) fun slave =>
      withOperand s (frameByte w.frame 1) fun fc =>
        .next (((s.publishFrame w.frame).publishHeader slave fc w.exc).publishEntries w.entries).endOk

/-- DECODE_FRAME (R99). -/
def execDecodeFrame (s : State) : Result :=
  (((((ingress (s.beginCommand .decodeFrame)).andThen lengthTest).andThen crcVerify).andThen route).andThen
    finishDecode)

/-- CRC_CHECK's FRAME_LEN and FRAME_BUF, written before the check (R108). -/
def publishRunningFrame (s : State) : Result := withRunning s fun w => .next (s.publishFrame w.frame)

/-- A command ends with STATUS.CODE = OK (R98). -/
def finishOk (s : State) : Result := .next s.endOk

/-- CRC_CHECK (R108). -/
def execCrcCheck (s : State) : Result :=
  ((((ingress (s.beginCommand .crcCheck)).andThen publishRunningFrame).andThen crcVerify).andThen finishOk)

/-- REG_DECODE's outputs: ENTRY_COUNT and ENTRY[0] (R109). -/
def finishRegDecode (s : State) : Result :=
  withRunning s fun w => .next (s.publishEntries w.entries).endOk

/-- REG_DECODE (R109). -/
def execRegDecode (s : State) : Result :=
  match s.regAddr, s.regRaw with
  | some a, some raw => (runRegDecode a raw false (s.beginCommand .regDecode)).andThen finishRegDecode
  | _, _ => .fault .inputUnwritten

/-- CMD_RESERVED (R110). -/
def execCmdReserved (s : State) : Result := failCommand .badCommand (s.beginCommand .reserved)

end Sys2Proof.Machine
end

