-- ==== Sys2Proof/Syntax.lean ====
section
/-! DEFINITION. The instructions: the 19 rows of spec/opcode_table.json (R2), and the encoded words of their four
formats. -/

namespace Sys2Proof

/-- One constructor per row of spec/opcode_table.json. `other` carries the function code it stands for, `unknown` and
`generic` the register address (assumption 16); every other row fixes all the bits its format gives it. -/
inductive Instr where
  /-- DECODE_FRAME, CMD.OP = 0 (R99). -/
  | decodeFrame
  /-- CRC_CHECK, CMD.OP = 1 (R108). -/
  | crcCheck
  /-- REG_DECODE, CMD.OP = 2 (R109). -/
  | regDecode
  /-- CMD_RESERVED, CMD.OP = 3 (R110). -/
  | cmdReserved
  /-- IN_BYTES, IN_MODE.MODE = 0 (R80). -/
  | inBytes
  /-- IN_HEX, IN_MODE.MODE = 1 (R83). -/
  | inHex
  /-- IN_WORDS, IN_MODE.MODE = 2 (R84). -/
  | inWords
  /-- IN_RESERVED, IN_MODE.MODE = 3 (R85). -/
  | inReserved
  /-- RHR, function code 0x03 (R104). -/
  | rhr
  /-- WSR, function code 0x06 (R105). -/
  | wsr
  /-- EXC, function code 0x83 (R106). -/
  | exc
  /-- OTHER, every other function code (R107). -/
  | other (fc : Byte)
  /-- UNKNOWN, an address with no descriptor (R127). -/
  | unknown (address : Half)
  /-- ERROR_CODE, address 0x0006 (R122). -/
  | errorCode
  /-- STATUS_FLAGS, address 0x0007 (R123). -/
  | statusFlags
  /-- CARRIER_FREQ, address 0x0014 (R124). -/
  | carrierFreq
  /-- MEAS_RANGE, address 0x0019 (R126). -/
  | measRange
  /-- STATUS_CMD, address 0x1001 (R125). -/
  | statusCmd
  /-- GENERIC, a described address that is no override address (R120). -/
  | generic (address : Half)
  deriving DecidableEq, Repr

/-- The four formats of spec/opcode_table.json. -/
inductive Format where
  | cmd
  | inMode
  | frame
  | regAddr
  deriving DecidableEq, Repr

/-- An encoded word together with its format: the same number means different rows in different formats (R59, R60,
R69, R70). -/
inductive Code where
  /-- the 32-bit word written to CMD (R59) -/
  | cmd (v : Word)
  /-- the 32-bit word written to IN_MODE (R60) -/
  | inMode (v : Word)
  /-- the function code byte `F[1]` (R69) -/
  | frame (fc : Byte)
  /-- the register address (R70) -/
  | regAddr (a : Half)
  deriving DecidableEq, Repr

/-- The format of an encoded word. -/
def Code.format : Code → Format
  | .cmd _ => .cmd
  | .inMode _ => .inMode
  | .frame _ => .frame
  | .regAddr _ => .regAddr

/-- The format of a row, as spec/opcode_table.json gives it. -/
def Instr.format : Instr → Format
  | .decodeFrame | .crcCheck | .regDecode | .cmdReserved => .cmd
  | .inBytes | .inHex | .inWords | .inReserved => .inMode
  | .rhr | .wsr | .exc | .other _ => .frame
  | .unknown _ | .errorCode | .statusFlags | .carrierFreq | .measRange | .statusCmd | .generic _ => .regAddr

end Sys2Proof
end

