-- ==== Sys2Proof/Machine/Dispatch.lean ====
section
/-! DEFINITION. The meaning of every instruction, one arm per constructor of Instr. -/

namespace Sys2Proof.Machine

def exec (i : Instr) (s : State) : Host.Outcome State Fault Refusal :=
  match i with
  | .decodeFrame => Sys2Proof.Machine.execDecodeFrame s
  | .crcCheck => Sys2Proof.Machine.execCrcCheck s
  | .regDecode => Sys2Proof.Machine.execRegDecode s
  | .cmdReserved => Sys2Proof.Machine.execCmdReserved s
  | .inBytes => Sys2Proof.Machine.execInBytes s
  | .inHex => Sys2Proof.Machine.execInHex s
  | .inWords => Sys2Proof.Machine.execInWords s
  | .inReserved => Sys2Proof.Machine.execInReserved s
  | .rhr => Sys2Proof.Machine.execRhr s
  | .wsr => Sys2Proof.Machine.execWsr s
  | .exc => Sys2Proof.Machine.execExc s
  | .other fc => Sys2Proof.Machine.execOther fc s
  | .unknown a => Sys2Proof.Machine.execUnknown a s
  | .errorCode => Sys2Proof.Machine.execErrorCode s
  | .statusFlags => Sys2Proof.Machine.execStatusFlags s
  | .carrierFreq => Sys2Proof.Machine.execCarrierFreq s
  | .measRange => Sys2Proof.Machine.execMeasRange s
  | .statusCmd => Sys2Proof.Machine.execStatusCmd s
  | .generic a => Sys2Proof.Machine.execGeneric a s

end Sys2Proof.Machine
end

