-- ==== Sys2Proof/WellFormed.lean ====
section
/-! DEFINITION. Well-formed instructions: the checks of the selection rules R69 and R70. -/

namespace Sys2Proof

/-- The five override addresses (R35). -/
def overrideAddresses : List Half := [0x0006, 0x0007, 0x0014, 0x0019, 0x1001]

/-- A descriptor for address `a` exists in the table. -/
def described (tab : RegTable) (a : Half) : Bool := (Machine.lookup tab a).isSome

/-- An instruction the maps of R69 to R71 can select under the table `tab`: `other` stands for no code of another
handler; `unknown` needs an address with no descriptor; an override variant needs the descriptor of its address;
`generic` needs a descriptor of an address that is no override address. -/
def WellFormed (tab : RegTable) : Instr → Bool
  | .decodeFrame | .crcCheck | .regDecode | .cmdReserved => true
  | .inBytes | .inHex | .inWords | .inReserved => true
  | .rhr | .wsr | .exc => true
  | .other fc => fc != 0x03 && fc != 0x06 && fc != 0x83
  | .unknown a => !described tab a
  | .errorCode => described tab 0x0006
  | .statusFlags => described tab 0x0007
  | .carrierFreq => described tab 0x0014
  | .measRange => described tab 0x0019
  | .statusCmd => described tab 0x1001
  | .generic a => described tab a && !overrideAddresses.contains a

end Sys2Proof
end

