-- ==== Sys2Proof/Decode.lean ====
section
/-! DEFINITION. The decoder: the dispatch maps of R69, R70 and R71 over encoded words, over raw bytes, and over the
numbers of spec/opcode_table.json; and the encoder. -/

namespace Sys2Proof

/-- Why bytes are no instruction word. -/
inductive DecodeError where
  /-- The format's word has another number of bytes. Raised by `decodeBytes`; safe: nothing is decoded. -/
  | wrongLength (format : Format) (found : Nat)
  /-- No format has this many bits. Raised by `codeOfTableWord`; safe: nothing is decoded. -/
  | noFormat (nbits : Nat)
  /-- The offset word names no register with a format. Raised by `codeOfTableWord`; safe: nothing is decoded. -/
  | noFormatAt (offset : Nat)
  deriving DecidableEq, Repr

/-- CMD.OP = CMD[1:0] selects the command; CMD[31:2] is ignored (R59, R71). -/
def decodeCmd (v : Word) : Instr :=
  match (v.extractLsb' 0 2).toNat with
  | 0 => .decodeFrame
  | 1 => .crcCheck
  | 2 => .regDecode
  | _ => .cmdReserved

/-- MODE, the two kept bits of IN_MODE, selects the input decoder (R60, R71). -/
def decodeMode (m : BitVec 2) : Instr :=
  match m.toNat with
  | 0 => .inBytes
  | 1 => .inHex
  | 2 => .inWords
  | _ => .inReserved

/-- The function code selects the frame handler, an exact 8-bit match in the order of R69. -/
def decodeFunc (fc : Byte) : Instr :=
  if fc = 0x03 then .rhr else if fc = 0x06 then .wsr else if fc = 0x83 then .exc else .other fc

/-- The register address selects the decoder variant, in the order of R70: the absent address first. -/
def decodeAddr (tab : RegTable) (a : Half) : Instr :=
  match Machine.lookup tab a with
  | none => .unknown a
  | some _ =>
    if a = 0x0006 then .errorCode
    else if a = 0x0007 then .statusFlags
    else if a = 0x0014 then .carrierFreq
    else if a = 0x0019 then .measRange
    else if a = 0x1001 then .statusCmd
    else .generic a

/-- The instruction an encoded word selects; every word of every format selects one (R72). -/
def decode (tab : RegTable) : Code → Instr
  | .cmd v => decodeCmd v
  | .inMode v => decodeMode (v.extractLsb' 0 2)
  | .frame fc => decodeFunc fc
  | .regAddr a => decodeAddr tab a

/-- A little-endian number from bytes: byte 0 is the least significant, as spec/opcode_table.json numbers bits. -/
def numberOfBytes : List Byte → Nat
  | [] => 0
  | b :: rest => b.toNat + 256 * numberOfBytes rest

/-- The `n` low bytes of a number, byte 0 the least significant. -/
def bytesOfNumber : Nat → Nat → List Byte
  | 0, _ => []
  | n + 1, w => BitVec.ofNat 8 w :: bytesOfNumber n (w / 256)

/-- The number of bytes of a format's word. -/
def Format.bytes : Format → Nat
  | .cmd => 4
  | .inMode => 4
  | .frame => 1
  | .regAddr => 2

/-- The encoded word of a format in some bytes. -/
def codeOfBytes (f : Format) (bs : List Byte) : Except DecodeError Code :=
  if bs.length = f.bytes then
    .ok (match f with
      | .cmd => .cmd (BitVec.ofNat 32 (numberOfBytes bs))
      | .inMode => .inMode (BitVec.ofNat 32 (numberOfBytes bs))
      | .frame => .frame (BitVec.ofNat 8 (numberOfBytes bs))
      | .regAddr => .regAddr (BitVec.ofNat 16 (numberOfBytes bs)))
  else .error (.wrongLength f bs.length)

/-- The decoder over bytes, total: an instruction, or a rejection by name. -/
def decodeBytes (tab : RegTable) (f : Format) (bs : List Byte) : Except DecodeError Instr :=
  (codeOfBytes f bs).map (decode tab)

/-- The encoded word of an instruction (R59, R60, R69, R70): the ignored bits are zero. -/
def encode : Instr → Code
  | .decodeFrame => .cmd 0
  | .crcCheck => .cmd 1
  | .regDecode => .cmd 2
  | .cmdReserved => .cmd 3
  | .inBytes => .inMode 0
  | .inHex => .inMode 1
  | .inWords => .inMode 2
  | .inReserved => .inMode 3
  | .rhr => .frame 0x03
  | .wsr => .frame 0x06
  | .exc => .frame 0x83
  | .other fc => .frame fc
  | .unknown a => .regAddr a
  | .errorCode => .regAddr 0x0006
  | .statusFlags => .regAddr 0x0007
  | .carrierFreq => .regAddr 0x0014
  | .measRange => .regAddr 0x0019
  | .statusCmd => .regAddr 0x1001
  | .generic a => .regAddr a

/-- The bits of a word that select an instruction, the ignored ones cleared (R59, R60). -/
def Code.significant : Code → Code
  | .cmd v => .cmd ((v.extractLsb' 0 2).setWidth 32)
  | .inMode v => .inMode ((v.extractLsb' 0 2).setWidth 32)
  | .frame fc => .frame fc
  | .regAddr a => .regAddr a

/-- The bytes of an encoded word, byte 0 the least significant. -/
def bytesOfCode : Code → List Byte
  | .cmd v => bytesOfNumber 4 v.toNat
  | .inMode v => bytesOfNumber 4 v.toNat
  | .frame fc => bytesOfNumber 1 fc.toNat
  | .regAddr a => bytesOfNumber 2 a.toNat

/-- The format and the number of bytes of a word of `nbits` bits of the opcode table whose value is `w`
(DESIGN CHOICE, assumption 1: the table's four formats share their numbers). 32 bits are a word written to CMD, and
48 bits that word with the IFACE offset it is written to above it (CMD at 0x000, IN_MODE at 0x008). 16 bits are a
register address, no bits the catch-all row OTHER. 8 bits are a function code, but for 0, 1 and 2, which no handler's
row fixes: those are the low byte of a command word. -/
def formatOfTableWord (nbits w : Nat) : Except DecodeError Format :=
  if nbits = 0 then .ok .frame
  else if nbits ≤ 8 then (if w ≤ 2 then .ok .cmd else .ok .frame)
  else if nbits ≤ 16 then .ok .regAddr
  else if nbits ≤ 32 then .ok .cmd
  else if nbits ≤ 48 then
    (if w / 2 ^ 32 = 0x000 then .ok .cmd else if w / 2 ^ 32 = 0x008 then .ok .inMode
     else .error (.noFormatAt (w / 2 ^ 32)))
  else .error (.noFormat nbits)

/-- The encoded word of a table word: its bytes, as many as its format has, given to the byte decoder. -/
def codeOfTableWord (nbits w : Nat) : Except DecodeError Code :=
  match formatOfTableWord nbits w with
  | .ok f => codeOfBytes f (bytesOfNumber f.bytes w)
  | .error e => .error e

/-- The instruction the decoder reads from a word of spec/opcode_table.json, under the table of State.reset. -/
def decodeTableWord (nbits w : Nat) : Option Instr :=
  match codeOfTableWord nbits w with
  | .ok c => some (decode Machine.defaultParams.regTable c)
  | .error _ => none

end Sys2Proof
end

