-- ==== Sys2Proof/Machine/Bus.lean ====
section
/-! DEFINITION. Host accesses to IFACE: the register map of R18, the access rules of R19 to R31, R47, R50, R51 and
their order (R139), and the reset signal (R151). -/

namespace Sys2Proof.Machine

/-- The register file below 0x1000 (R18). -/
def scalarAt (o : Nat) : RegName :=
  if o = 0x000 then .cmd else if o = 0x004 then .status else if o = 0x008 then .inMode
  else if o = 0x00C then .inLen else if o = 0x010 then .regAddr else if o = 0x014 then .regRaw
  else if o = 0x018 then .slaveAddr else if o = 0x01C then .func else if o = 0x020 then .exc
  else if o = 0x024 then .frameLen else if o = 0x028 then .crcCalc else if o = 0x02C then .crcRecv
  else if o = 0x030 then .entryCount else .reserved

/-- The register at an aligned offset, for a block of input depth `depth` (R18). -/
def regAt (depth o : Nat) : RegName :=
  if o < 0x1000 then scalarAt o
  else if o < 0x1800 then .entry ((o - 0x1000) / 16) ((o - 0x1000) % 16 / 4)
  else if o < 0x2000 then .reserved
  else if o < 0x4000 then (if o < 0x2000 + 4 * depth then .inBuf ((o - 0x2000) / 4) else .reserved)
  else (if o < 0x4000 + 4 * depth then .frameBuf ((o - 0x4000) / 4) else .reserved)

/-- `off(NAME)` of R76: the offset of a register (R18). A reserved offset is no register; 0x034 is the first one. -/
def offsetOf : RegName → Nat
  | .cmd => 0x000
  | .status => 0x004
  | .inMode => 0x008
  | .inLen => 0x00C
  | .regAddr => 0x010
  | .regRaw => 0x014
  | .slaveAddr => 0x018
  | .func => 0x01C
  | .exc => 0x020
  | .frameLen => 0x024
  | .crcCalc => 0x028
  | .crcRecv => 0x02C
  | .entryCount => 0x030
  | .entry k w => entryOffset k w
  | .inBuf k => inBufOffset k
  | .frameBuf k => frameBufOffset k
  | .reserved => 0x034

/-- What the host may do with a register (R18). -/
inductive Access where
  | writeOnly
  | readOnly
  | readWrite
  | noAccess
  deriving DecidableEq, Repr

/-- The access column of R18. -/
def accessOf : RegName → Access
  | .cmd => .writeOnly
  | .inMode | .inLen | .regAddr | .regRaw | .inBuf _ => .readWrite
  | .status | .slaveAddr | .func | .exc | .frameLen | .crcCalc | .crcRecv | .entryCount | .entry _ _
  | .frameBuf _ => .readOnly
  | .reserved => .noAccess

/-- The word a register reads as; `none` is NONE (R17, R20 to R31). CMD and reserved offsets hold nothing. -/
def readReg (s : State) : RegName → Option Word
  | .cmd => none
  | .status => some (statusWord s.status)
  | .inMode => s.inMode.map zext32
  | .inLen => s.inLen.map zext32
  | .regAddr => s.regAddr.map zext32
  | .regRaw => s.regRaw.map zext32
  | .slaveAddr => s.slaveAddr
  | .func => s.func
  | .exc => s.exc
  | .frameLen => s.frameLen
  | .crcCalc => s.crcCalc
  | .crcRecv => s.crcRecv
  | .entryCount => s.entryCount
  | .entry k w => s.mem.read (entryOffset k w)
  | .inBuf k => s.mem.read (inBufOffset k)
  | .frameBuf k => s.mem.read (frameBufOffset k)
  | .reserved => none

/-- A host write of an input register: the reserved bits are dropped (R21 to R23), IN_BUF keeps all 32 (R31). The other
registers are not written by a store. -/
def storeReg (s : State) (r : RegName) (v : Word) : State :=
  match r with
  | .inMode => { s with inMode := some (v.extractLsb' 0 2) }
  | .inLen => { s with inLen := some (v.extractLsb' 0 16) }
  | .regAddr => { s with regAddr := some (v.extractLsb' 0 16) }
  | .regRaw => { s with regRaw := some (v.extractLsb' 0 16) }
  | .inBuf k => { s with mem := s.mem.write (inBufOffset k) v }
  | _ => s

/-- The first check of R139: the access is an aligned 32-bit word (R47). -/
def badBusAccess (offset : BitVec 16) (width : Nat) : Bool := width != 32 || offset.toNat % 4 != 0

/-- A host read (R139): on a readable register the word goes to the host, and nothing else changes (R50). -/
def busRead (offset : BitVec 16) (width : Nat) (s : State) : Result :=
  if badBusAccess offset width then .refused .busAccess
  else
    let r := regAt s.params.inDepth offset.toNat
    match accessOf r with
    | .noAccess => .refused .reservedOffset
    | .writeOnly => .refused .readWriteOnly
    | .readOnly | .readWrite =>
      match readReg s r with
      | none => .fault .readUnwritten
      | some v => .next { s with readLog := v :: s.readLog }

/-- A host write (R139): a write of CMD runs the command its word selects (R50, R98), a write of an input register
stores. `run` is the machine's `exec`. -/
def busWrite (run : Instr → State → Result) (offset : BitVec 16) (width : Nat) (v : Word) (s : State) : Result :=
  if badBusAccess offset width then .refused .busAccess
  else
    let r := regAt s.params.inDepth offset.toNat
    match accessOf r with
    | .noAccess => .refused .reservedOffset
    | .readOnly => .refused .writeReadOnly
    | .writeOnly => run (decode s.params.regTable (.cmd v)) s
    | .readWrite => .next (storeReg s r v)

/-- One host access. -/
def busAccess (run : Instr → State → Result) (a : BusAccess) (s : State) : Result :=
  match a with
  | .read o width => busRead o width s
  | .write o width v => busWrite run o width v s

/-- Reset is released (R151): every register and the engine as after reset; the parameters and tables are not changed
(R152), and the host's own script and log are the host's. -/
def State.releaseReset (s : State) : State :=
  { State.resetWith s.params with pending := s.pending, readLog := s.readLog }

/-- One event from outside. While reset is asserted no host access is accepted (R151). -/
def hostEvent (run : Instr → State → Result) (e : HostEvent) (s : State) : Result :=
  match e with
  | .access a => if s.resetHeld then .refused .heldInReset else busAccess run a s
  | .assertReset => .next { s with resetHeld := true }
  | .releaseReset => .next (if s.resetHeld then s.releaseReset else s)

/-- The next pending event taken from its queue and run; with nothing pending the block idles (assumption 11). -/
def takeEvent (run : Instr → State → Result) (s : State) : Result :=
  match s.pending with
  | [] => .next s
  | e :: rest => hostEvent run e { s with pending := rest }

/-- The host goes on after an access that a fault or a refusal ended: that access has no effect and the registers are
as they were (R134, R137, R138; assumption 9). -/
def State.dropAccess (s : State) : State := { s with pending := s.pending.tail }

/-! ### The platform's side of the bus -/

/-- The platform address of an offset (R40): P_BASE plus the offset. No rule of the block depends on it. -/
def busAddress (p : Params) (offset : BitVec 16) : Nat := p.base + offset.toNat

/-- The four bytes of a word in the platform's lane order (R45). No rule of the block depends on it. -/
def laneBytes (e : BusEndian) (v : Word) : List Byte :=
  let low := [v.extractLsb' 0 8, v.extractLsb' 8 8, v.extractLsb' 16 8, v.extractLsb' 24 8]
  match e with
  | .little => low
  | .big => low.reverse

end Sys2Proof.Machine
end

