-- ==== Sys2Proof/Machine/Fetch.lean ====
section
/-! DEFINITION. Placing an encoded word where the next step runs its instruction (assumptions 1 and 2). -/

namespace Sys2Proof.Machine

/-- The host's next access is a write of `v` to CMD, and reset is not asserted. -/
def State.withCmdWrite (s : State) (v : Word) : State :=
  { s with pending := .access (.write 0x000 32 v) :: s.pending, resetHeld := false }

/-- The body of the frame that carries function code `fc`: slave address and operand bytes zero (R61 to R63). -/
def probeBody (fc : Byte) : List Byte := [0, fc, 0, 0, 0, 0]

/-- That frame with the checksum R95 appends. -/
def probeFrame (fc : Byte) : List Byte := probeBody fc ++ crcTail (crcBytes 0xFFFF (probeBody fc))

/-- All it takes for the next step to run the instruction of an encoded word: a command word is written to CMD; an input
mode is selected with no elements and CRC_CHECK runs its decoder; a function code stands in a frame in IN_BUF and
DECODE_FRAME runs its handler; a register address stands in REG_ADDR with raw value 0 and REG_DECODE runs its
variant. -/
def State.placeCode (s : State) : Code → State
  | .cmd v => s.withCmdWrite v
  | .inMode v => { s with inMode := some (v.extractLsb' 0 2), inLen := some 0 }.withCmdWrite 1
  | .frame fc =>
    { s with inMode := some 0, inLen := some (BitVec.ofNat 16 (probeFrame fc).length),
             mem := s.mem.writeWords (inBufOffset 0) ((probeFrame fc).map zext32) }.withCmdWrite 0
  | .regAddr a => { s with regAddr := some a, regRaw := some 0 }.withCmdWrite 2

end Sys2Proof.Machine
end

