-- ==== Sys2Proof/Machine/Step.lean ====
section
/-! DEFINITION. One step of the machine: the next pending event from outside, a command whole inside its CMD write
(R54, R98). -/

namespace Sys2Proof.Machine

/-- One step. -/
def step (s : State) : Host.Outcome State Fault Refusal := takeEvent exec s

/-- The instruction of a word of spec/opcode_table.json placed where the next step runs it (assumptions 1 and 2). -/
def State.withFetchWord (s : State) (nbits w : Nat) : State :=
  match codeOfTableWord nbits w with
  | .ok c => s.placeCode c
  | .error _ => s

end Sys2Proof.Machine
end

