-- ==== Sys2Proof/Machine/Reference.lean ====
section
/-! DEFINITION. The source's pure decoder over a frame (R2, R99 to R107): what statements compare the engine's staged
command with. No step reads it. -/

namespace Sys2Proof.Machine

/-- The 16-bit big-endian value at offset `o` of a frame long enough to hold it (R43). -/
def valueAt (f : List Byte) (o : Nat) : Half := joinBytes (f.getD o 0) (f.getD (o + 1) 0)

/-- The received checksum of a frame of at least two bytes (R42, R92). -/
def receivedCrc (f : List Byte) : Half := joinBytes (f.getD (f.length - 1) 0) (f.getD (f.length - 2) 0)

/-- The entries of a 0x03 frame with `n` registers (R104). -/
def rhrEntries (tab : RegTable) (f : List Byte) (n : Nat) : List Entry :=
  (List.range n).map fun i => regDecodeEntry tab (logicalAddress i) (valueAt f (3 + 2 * i)) false

/-- The entries of a 0x06 frame: none for an unknown address (R105). -/
def wsrEntries (tab : RegTable) (f : List Byte) : List Entry :=
  match lookup tab (valueAt f 2) with
  | none => []
  | some _ => [regDecodeEntry tab (valueAt f 2) (valueAt f 4) true]

/-- What a frame that passed the length and checksum tests carries: the entries and the exception fields, or the
overrun failure (R103 to R107). -/
def framePayload (tab : RegTable) (f : List Byte) : Except StatusCode (List Entry × ExcInfo) :=
  let fc := f.getD 1 0
  let b2 := f.getD 2 0
  if fc = 0x03 then
    let n := registerCount b2
    if 1 ≤ n ∧ f.length < 2 * n + 3 then .error .payloadOverrun else .ok (rhrEntries tab f n, .none)
  else if fc = 0x06 then
    if f.length < 6 then .error .payloadOverrun else .ok (wsrEntries tab f, .none)
  else if fc = 0x83 then .ok ([], { valid := true, code := b2, text := (excTxt b2).id })
  else .ok ([], .none)

/-- The decode of a frame: the length test, the checksum test, the payload (R99, R100, R140). -/
def decodeReference (tab : RegTable) (f : List Byte) : Except StatusCode (List Entry × ExcInfo) :=
  if f.length < 4 then .error .frameTooShort
  else if crcCalc f ≠ receivedCrc f then .error .checksum
  else framePayload tab f

/-- The state a DECODE_FRAME leaves that ended with the decode `r` of frame `f` (R99, R135). -/
def decodeOutcome (s : State) (f : List Byte) : Except StatusCode (List Entry × ExcInfo) → State
  | .error c => s.failWith .decodeFrame c
  | .ok (es, x) =>
    let t := { s.clearOutputs with crcCalc := some (zext32 (crcCalc f)), crcRecv := some (zext32 (receivedCrc f)) }
    (((t.publishFrame f).publishHeader (f.getD 0 0) (f.getD 1 0) x).publishEntries es).endOk

end Sys2Proof.Machine
end

