-- ==== Sys2Proof/Machine/Canonical.lean ====
section
/-! DEFINITION. The canonical decode result a host builds from the outputs (R112, R128 to R131), and the failure
classes (R134, R136). No step reads it. -/

namespace Sys2Proof.Machine

/-! ### Failure classes -/

/-- The source classes of R134. -/
inductive FailureClass where
  | inputFormat
  | frameTooShort
  | checksum
  deriving DecidableEq, Repr

/-- `class(c)` of R134; `none` where the source has no class. -/
def failureClass : StatusCode → Option FailureClass
  | .inputUnsupported | .inputOddLength | .inputBadDigit | .inputRange => some .inputFormat
  | .frameTooShort => some .frameTooShort
  | .checksum => some .checksum
  | .idle | .ok | .payloadOverrun | .badCommand => none

/-- The source's two fixed message words (R136). -/
def failureWords : StatusCode → Option String
  | .inputOddLength => some "odd length"
  | .inputUnsupported => some "unsupported type"
  | _ => none

/-! ### Reading an entry back from its words -/

/-- The kind a KIND number stands for; 7 is reserved (R30). -/
def kindOfCode (k : Nat) : Option EntryKind :=
  match k with
  | 0 => some .generic
  | 1 => some .errorCode
  | 2 => some .statusFlags
  | 3 => some .carrierFreq
  | 4 => some .statusCmd
  | 5 => some .measRange
  | 6 => some .unknown
  | _ => none

/-- The entry record in four words, the inverse of `pack` (R30, R111). -/
def unpack (w0 w1 w2 w3 : Word) : Option Entry :=
  (kindOfCode (w0.extractLsb' 0 3).toNat).map fun kind =>
    { kind
      writeOp := w0.getLsbD 3
      readOnly := w0.getLsbD 4
      waterShortage := w0.getLsbD 5
      running := w0.getLsbD 6
      textId := w0.extractLsb' 8 8
      descIndex := w0.extractLsb' 16 8
      address := w1.extractLsb' 0 16
      raw := w1.extractLsb' 16 16
      valueMilli := w3.extractLsb' 0 16 ++ w2 }

/-- ENTRY[k] as a record; `none` where a word holds NONE or KIND is reserved. -/
def entryAt (s : State) (k : Nat) : Option Entry :=
  match readReg s (.entry k 0), readReg s (.entry k 1), readReg s (.entry k 2), readReg s (.entry k 3) with
  | some w0, some w1, some w2, some w3 => unpack w0 w1 w2 w3
  | _, _, _, _ => none

/-- The entries ENTRY[k .. k+n-1]. -/
def entriesAt (s : State) (k : Nat) : Nat → Option (List Entry)
  | 0 => some []
  | n + 1 =>
    match entryAt s k, entriesAt s (k + 1) n with
    | some e, some rest => some (e :: rest)
    | _, _ => none

/-- The frame bytes FRAME_BUF[k .. k+n-1]. -/
def frameBytesAt (s : State) (k : Nat) : Nat → Option (List Byte)
  | 0 => some []
  | n + 1 =>
    match readReg s (.frameBuf k), frameBytesAt s (k + 1) n with
    | some v, some rest => some (slotByte v :: rest)
    | _, _ => none

/-! ### Keys and shapes -/

/-- An exact decimal `milli / 1000` (R131). -/
structure Decimal where
  milli : Nat
  deriving DecidableEq, Repr

/-- `Key(e)` of R128. -/
def entryKey (tab : RegTable) (e : Entry) : Option String :=
  match e.kind with
  | .unknown => (renderId 42 0).map (· ++ hex4 e.address)
  | _ => tab[e.descIndex.toNat]?.map (·.name)

/-- The text of an entry: the ROM text of its TEXT_ID, a template filled with its raw value (R12, R126). -/
def entryText (e : Entry) : Option String := renderId e.textId.toNat e.raw.toNat

/-- `description` of an ERROR_CODE or STATUS_CMD entry under P_DESC_MERGE (R130). -/
def mergedDescription (p : Params) (d : Descriptor) (e : Entry) : Option String :=
  match p.descMerge with
  | .codeText => entryText e
  | .descriptor => some d.description

/-- The canonical DecodedRegister (R129). `operation` is "write" for an entry of the 0x06 path, else absent. -/
inductive Shape where
  | generic (value : Decimal) (rawValue : Nat) (unit description : String) (address : Half) (readOnly : Bool)
      (operation : Option String)
  | errorCode (code : Nat) (description : String) (rawValue : Nat) (unit : String) (address : Half)
      (readOnly : Bool) (operation : Option String)
  | statusFlags (waterShortage running : Bool) (rawValue : Nat) (unit description : String) (address : Half)
      (readOnly : Bool) (operation : Option String)
  | carrierFreq (value : String) (code rawValue : Nat) (unit description : String) (address : Half)
      (readOnly : Bool) (operation : Option String)
  | statusCmd (code : Nat) (description : String) (rawValue : Nat) (unit : String) (address : Half)
      (readOnly : Bool) (operation : Option String)
  | measRange (value : String) (code rawValue : Nat) (unit description : String) (address : Half)
      (readOnly : Bool) (operation : Option String)
  | unknown (value : Decimal) (rawValue : Nat) (unit description : String) (address : Half)
      (operation : Option String)
  deriving DecidableEq, Repr

/-- `operation: "write"` when WRITE_OP is 1 (R129). -/
def operationTag (e : Entry) : Option String := if e.writeOp then renderId 41 0 else none

/-- The exact numeric value of an entry (R131). -/
def entryValue (e : Entry) : Decimal := { milli := e.valueMilli.toNat }

/-- `Shape(e)` of a kind that has a descriptor (R129, R130). -/
def knownShape (p : Params) (d : Descriptor) (e : Entry) : Option Shape :=
  let r := e.raw.toNat
  let op := operationTag e
  match e.kind with
  | .generic => some (.generic (entryValue e) r d.unit d.description e.address d.readOnly op)
  | .errorCode => (mergedDescription p d e).map fun t => .errorCode r t r d.unit e.address d.readOnly op
  | .statusFlags =>
    some (.statusFlags e.waterShortage e.running r d.unit d.description e.address d.readOnly op)
  | .carrierFreq => (entryText e).map fun t => .carrierFreq t r r d.unit d.description e.address d.readOnly op
  | .statusCmd => (mergedDescription p d e).map fun t => .statusCmd r t r d.unit e.address d.readOnly op
  | .measRange => (entryText e).map fun t => .measRange t r r d.unit d.description e.address d.readOnly op
  | .unknown => none

/-- `Shape(e)` of R129. UNKNOWN has no descriptor fields and no `read_only`. -/
def entryShape (p : Params) (e : Entry) : Option Shape :=
  match e.kind with
  | .unknown =>
    match renderId 37 0, renderId 36 0 with
    | some u, some t => some (.unknown (entryValue e) e.raw.toNat u t e.address (operationTag e))
    | _, _ => none
  | _ => p.regTable[e.descIndex.toNat]?.bind fun d => knownShape p d e

/-- The registers map over a list of entries, in order (R112). -/
def registersMap (p : Params) : List Entry → Option (List (String × Shape))
  | [] => some []
  | e :: rest =>
    match entryKey p.regTable e, entryShape p e, registersMap p rest with
    | some k, some sh, some m => some ((k, sh) :: m)
    | _, _, _ => none

/-! ### The canonical result -/

/-- `error` of the canonical result (R106, R112); `modbus_error` is true whenever it is present. -/
structure ErrorInfo where
  code : Nat
  description : String
  modbusError : Bool
  deriving DecidableEq, Repr

/-- The canonical decode result, "DecodedFrame" (R112); the timestamp is no part of it. -/
structure DecodedFrame where
  slaveAddress : Nat
  functionCode : Nat
  functionName : String
  rawData : String
  registers : List (String × Shape)
  error : Option ErrorInfo
  deriving DecidableEq, Repr

/-- `raw_data`: HEX2 of every frame byte, in order (R112). -/
def rawData (f : List Byte) : String := String.ofList (f.flatMap hex2Chars)

/-- `error` from the EXC word (R112): present iff EXC.VALID is 1; the outer `none` is a TEXT_ID outside the ROM. -/
def errorOf (exc : Word) : Option (Option ErrorInfo) :=
  if exc.getLsbD 0 then
    match renderId 38 0, renderId (exc.extractLsb' 16 8).toNat 0 with
    | some pre, some t =>
      some (some { code := (exc.extractLsb' 8 8).toNat, description := pre ++ t, modbusError := true })
    | _, _ => none
  else some none

/-- The canonical result of a DECODE_FRAME that ended with STATUS OK, from the output registers (R112); `none` where an
output it reads holds NONE or the last command did not end OK. -/
def canonicalResult (s : State) : Option DecodedFrame :=
  match s.status, s.slaveAddr, s.func, s.exc, s.frameLen, s.entryCount with
  | .ok, some slave, some func, some exc, some len, some count =>
    let fc := (func.extractLsb' 0 8).toNat
    match renderId (func.extractLsb' 8 8).toNat fc, frameBytesAt s 0 (len.extractLsb' 0 16).toNat,
        (entriesAt s 0 (count.extractLsb' 0 8).toNat).bind (registersMap s.params), errorOf exc with
    | some name, some f, some regs, some err =>
      some { slaveAddress := (slave.extractLsb' 0 8).toNat, functionCode := fc, functionName := name,
             rawData := rawData f, registers := regs, error := err }
    | _, _, _, _ => none
  | _, _, _, _, _, _ => none

end Sys2Proof.Machine
end

