-- ==== Sys2Proof/Safety.lean ====
section
/-! DEFINITION. The terms statements use: what the inputs hold, what the outputs look like between two accesses, and
the invariants every step keeps. -/

namespace Sys2Proof.Machine

/-! ### Inputs and outputs -/

/-- IN_LEN and IN_BUF hold the elements `vs`, within a buffer of legal depth (R7, R22, R31). -/
def SlotsHold (s : State) (vs : List Word) : Prop :=
  s.inLen = some (BitVec.ofNat 16 vs.length) ∧ vs.length ≤ s.params.inDepth ∧ s.params.inDepth ≤ maxInDepth ∧
  ∀ k v, vs[k]? = some v → s.mem.read (inBufOffset k) = some v

/-- The character codes of a nibble in hexadecimal text, in either case (R13, R83). -/
def IsHexDigit (c : Byte) (nibble : Nat) : Prop :=
  c = BitVec.ofNat 8 (hexUpper nibble).toNat ∨ c = BitVec.ofNat 8 (hexLower nibble).toNat

/-- The characters `cs` spell the bytes `bs`: two digits a byte, the high nibble first, in either case (R83, R86). -/
def SpellsBytes (cs bs : List Byte) : Prop :=
  cs.length = 2 * bs.length ∧
  ∀ k b, bs[k]? = some b →
    ∃ h l, cs[2 * k]? = some h ∧ cs[2 * k + 1]? = some l ∧ IsHexDigit h (b.toNat / 16) ∧
      IsHexDigit l (b.toNat % 16)

/-- The input holds the bytes `bs` in BYTES mode: bits 31..8 of a slot are ignored (R80). -/
def HoldsAsBytes (s : State) (bs : List Byte) : Prop :=
  s.inMode = some 0 ∧ ∃ vs, SlotsHold s vs ∧ vs.map slotByte = bs

/-- The input holds the bytes `bs` in HEX mode, with whitespace anywhere (R83). -/
def HoldsAsHex (s : State) (bs : List Byte) : Prop :=
  s.inMode = some 1 ∧ ∃ vs, SlotsHold s vs ∧ SpellsBytes (hexChars vs) bs

/-- The input holds the bytes `bs` in WORDS mode (R84). -/
def HoldsAsWords (s : State) (bs : List Byte) : Prop :=
  s.inMode = some 2 ∧ SlotsHold s (bs.map zext32)

/-- The input holds the bytes `bs` in one of the three modes. -/
def HoldsFrame (s : State) (bs : List Byte) : Prop := HoldsAsBytes s bs ∨ HoldsAsHex s bs ∨ HoldsAsWords s bs

/-- The frame that flipping bit `j` of byte `i` of `f` gives (R96). -/
def flipBit (f : List Byte) (i j : Nat) : List Byte := f.modify i (fun b => b ^^^ (1#8 <<< j))

/-- A host access to the register at `offset`, an aligned offset of a word access, is the next event of a block that is
not held in reset. -/
def NextAccess (s : State) (a : BusAccess) (rest : List HostEvent) : Prop :=
  s.resetHeld = false ∧ s.pending = .access a :: rest

/-- Two states hold the same in every output register, STATUS included (R18). -/
def SameOutputs (s t : State) : Prop :=
  s.status = t.status ∧ s.slaveAddr = t.slaveAddr ∧ s.func = t.func ∧ s.exc = t.exc ∧ s.frameLen = t.frameLen ∧
  s.crcCalc = t.crcCalc ∧ s.crcRecv = t.crcRecv ∧ s.entryCount = t.entryCount ∧
  ∀ o, inOutputWindow o = true → s.mem.read o = t.mem.read o

/-- Two states hold the same in every input register (R135). -/
def SameInputs (s t : State) : Prop :=
  s.inMode = t.inMode ∧ s.inLen = t.inLen ∧ s.regAddr = t.regAddr ∧ s.regRaw = t.regRaw ∧
  ∀ o, inOutputWindow o = false → s.mem.read o = t.mem.read o

/-- The parts of a state that are no register of the block: its parameters, the outside's script and log, the reset
line. -/
def SameOutside (s t : State) : Prop :=
  s.params = t.params ∧ s.pending = t.pending ∧ s.readLog = t.readLog ∧ s.resetHeld = t.resetHeld

/-- Every output register but STATUS holds NONE (R17, R98). -/
def OutputsNone (s : State) : Prop :=
  s.slaveAddr = none ∧ s.func = none ∧ s.exc = none ∧ s.frameLen = none ∧ s.crcCalc = none ∧ s.crcRecv = none ∧
  s.entryCount = none ∧ ∀ o, inOutputWindow o = true → s.mem.read o = none

/-! ### The shape of the outputs between two accesses -/

/-- A cell that holds a value satisfies `p`. -/
def WhenSome (x : Option Word) (p : Word → Prop) : Prop := ∀ v, x = some v → p v

/-- EXC: the reserved bits read 0, and without an exception CODE is 0 and TEXT_ID 0xFF (R26). -/
def ExcShape (v : Word) : Prop :=
  v.extractLsb' 1 7 = 0 ∧ v.extractLsb' 24 8 = 0 ∧
  (v.getLsbD 0 = false → v.extractLsb' 8 8 = 0 ∧ v.extractLsb' 16 8 = 0xFF)

/-- Word 0 of an entry: the reserved bits read 0, and KIND, TEXT_ID and DESC_INDEX are values the engine writes
(R30, R74). -/
def EntryW0Shape (v : Word) : Prop :=
  v.getLsbD 7 = false ∧ v.extractLsb' 24 8 = 0 ∧ v.extractLsb' 0 3 ≠ 7 ∧
  ((v.extractLsb' 8 8).toNat ≤ 42 ∨ v.extractLsb' 8 8 = 0xFF) ∧
  ((v.extractLsb' 16 8).toNat < 20 ∨ v.extractLsb' 16 8 = 0xFF)

/-- The reserved bits of every output register read 0 (R24 to R30). -/
def ReservedBitsZero (s : State) : Prop :=
  WhenSome s.slaveAddr (fun v => v.toNat < 2 ^ 8) ∧ WhenSome s.func (fun v => v.toNat < 2 ^ 16) ∧
  WhenSome s.exc ExcShape ∧ WhenSome s.frameLen (fun v => v.toNat < 2 ^ 16) ∧
  WhenSome s.crcCalc (fun v => v.toNat < 2 ^ 16) ∧ WhenSome s.crcRecv (fun v => v.toNat < 2 ^ 16) ∧
  WhenSome s.entryCount (fun v => v.toNat ≤ 127) ∧
  (∀ k, WhenSome (s.mem.read (frameBufOffset k)) (fun v => v.toNat < 2 ^ 8)) ∧
  (∀ k, k < entrySlots → WhenSome (s.mem.read (entryOffset k 0)) EntryW0Shape) ∧
  (∀ k, k < entrySlots → WhenSome (s.mem.read (entryOffset k 3)) (fun v => v.toNat < 2 ^ 16))

/-- A count register that holds NONE counts no slot. -/
def countOf (x : Option Word) : Nat := (x.map BitVec.toNat).getD 0

/-- FRAME_BUF holds exactly the slots below FRAME_LEN, ENTRY exactly those below ENTRY_COUNT, and FRAME_LEN is at most
P_IN_DEPTH (R27, R29, R87). -/
def WindowsFilled (s : State) : Prop :=
  countOf s.frameLen ≤ s.params.inDepth ∧
  (∀ k, (s.mem.read (frameBufOffset k)).isSome = decide (k < countOf s.frameLen)) ∧
  (∀ k w, k < entrySlots → w < 4 →
    (s.mem.read (entryOffset k w)).isSome = decide (k < countOf s.entryCount))

/-- Only a command that ended OK, or a checksum failure, leaves outputs (R20, R135). -/
def OutputsExplained (s : State) : Prop := s.status ≠ .ok → s.status ≠ .checksum → OutputsNone s

/-- Every listed cell is a register of the map (R18). -/
def MemoryMapped (s : State) : Prop :=
  ∀ o, (s.mem.read o).isSome = true → o % 4 = 0 ∧
    ((0x1000 ≤ o ∧ o < 0x1800) ∨ (0x2000 ≤ o ∧ o < 0x2000 + 4 * s.params.inDepth) ∨
     (0x4000 ≤ o ∧ o < 0x4000 + 4 * s.params.inDepth))

/-- What holds of the block between any two accesses: legal parameters, memory in canonical form and inside the map, no
command half done, and outputs of the shape R17, R20, R24 to R30, R74 and R135 give them. -/
def BlockInv (s : State) : Prop :=
  legalParams s.params = true ∧ s.mem.wf = true ∧ s.engine = none ∧ MemoryMapped s ∧ ReservedBitsZero s ∧
  WindowsFilled s ∧ OutputsExplained s

end Sys2Proof.Machine
end

