-- ==== Sys2Proof/Certificates/Slice0/Obligations.lean ====
section
/-! DEFINITION. The statements about the block, for the provers. Each docstring names the rule it formalises. Where a
clause rests on a choice of the model, the docstring names the log entry. -/

open Sys2Proof Sys2Proof.Machine

/-! ### Encoding -/

/-- Decoding an encoded well-formed instruction gives it back, for every table and every operand (R59, R60, R69,
R70). -/
def Obligations.DecodeOfEncodeIsIdentity : Prop :=
  ∀ (tab : RegTable) (i : Instr), WellFormed tab i = true → decode tab (encode i) = i

/-- Every encoded word decodes to a well-formed instruction of its own format, whose encoding is the word with its
ignored bits cleared (R59, R60, R69, R70, R72). -/
def Obligations.EveryWordDecodesToOneInstruction : Prop :=
  ∀ (tab : RegTable) (c : Code),
    WellFormed tab (decode tab c) = true ∧ encode (decode tab c) = c.significant ∧
    (decode tab c).format = c.format ∧ decode tab c.significant = decode tab c

/-- CMD.OP alone chooses what a write of CMD runs: bits 31..2 change neither the decoded instruction nor the step
(R59). -/
def Obligations.CommandBitsAboveOpAreIgnored : Prop :=
  ∀ (s : State) (rest : List HostEvent) (v v' : Word), v.extractLsb' 0 2 = v'.extractLsb' 0 2 →
    decode s.params.regTable (.cmd v) = decode s.params.regTable (.cmd v') ∧
    step { s with pending := .access (.write 0 32 v) :: rest } =
      step { s with pending := .access (.write 0 32 v') :: rest }

/-- A few words of each format decode to the rows of the opcode table, under FIX20 (assumption 4). -/
def Obligations.SampleWordsDecodeToTheirRows : Prop :=
  decode fix20 (.cmd 0xFFFFFFFE#32) = .regDecode ∧ decode fix20 (.cmd 3) = .cmdReserved ∧
  decode fix20 (.inMode 0x00000001#32) = .inHex ∧ decode fix20 (.inMode 7) = .inReserved ∧
  decode fix20 (.frame 0x03#8) = .rhr ∧ decode fix20 (.frame 0x83#8) = .exc ∧
  decode fix20 (.frame 0x86#8) = .other 0x86#8 ∧
  decode fix20 (.regAddr 0x1001#16) = .statusCmd ∧ decode fix20 (.regAddr 0x0008#16) = .unknown 0x0008#16 ∧
  decode fix20 (.regAddr 0x0001#16) = .generic 0x0001#16

/-- The four output words of an entry hold all of it: reading their fields back gives the entry (R30, R111). -/
def Obligations.EntryWordsHoldTheWholeEntry : Prop :=
  ∀ e : Entry, unpack (entryW0 e) (entryW1 e) (entryW2 e) (entryW3 e) = some e

/-! ### The step -/

/-- When the host's next access writes a word to CMD, the step is `exec` of the instruction the word decodes to, on
the state with that access taken (R19, R50, R98). -/
def Obligations.StepRunsTheDecodedCommand : Prop :=
  ∀ (s : State) (v : Word) (rest : List HostEvent), NextAccess s (.write 0 32 v) rest →
    step s = exec (decode s.params.regTable (.cmd v)) { s with pending := rest }

/-- Inside a command each stage is `exec` of the instruction its selecting value decodes to: IN_MODE for the ingress,
F[1] for the router, the register address for the value decoder (R69, R70, R71). -/
def Obligations.StagesRunTheDecodedInstruction : Prop :=
  ∀ s : State,
    (∀ m, s.inMode = some m → ingress s = exec (decode s.params.regTable (.inMode (zext32 m))) s) ∧
    ∀ w, s.engine = some w →
      (∀ fc, w.frame[1]? = some fc → route s = exec (decode s.params.regTable (.frame fc)) s) ∧
      ∀ (a raw : Half) (write : Bool),
        runRegDecode a raw write s =
          exec (decode s.params.regTable (.regAddr a)) (s.setEngine { w with raw, write })

/-! ### Host accesses -/

/-- A host read of a register that holds a value gives the host that word and changes nothing else (R49, R50). -/
def Obligations.HostReadReturnsTheRegister : Prop :=
  ∀ (s : State) (o : BitVec 16) (v : Word) (rest : List HostEvent),
    NextAccess s (.read o 32) rest → o.toNat % 4 = 0 →
    readReg s (regAt s.params.inDepth o.toNat) = some v →
    step s = .next { s with pending := rest, readLog := v :: s.readLog }

/-- A host read of a readable register that holds NONE is the fault READ_UNWRITTEN (R17, R137). -/
def Obligations.HostReadOfNoneFaults : Prop :=
  ∀ (s : State) (o : BitVec 16) (rest : List HostEvent),
    NextAccess s (.read o 32) rest → o.toNat % 4 = 0 →
    regAt s.params.inDepth o.toNat ≠ .cmd → regAt s.params.inDepth o.toNat ≠ .reserved →
    readReg s (regAt s.params.inDepth o.toNat) = none → step s = .fault .readUnwritten

/-- A host write of an input register stores the register's own bits, which then read back, drops the others and changes
nothing else; a write of IN_BUF[k] stores all 32 bits in that slot alone (R21, R22, R23, R31, R50). -/
def Obligations.HostWriteStoresTheInputRegister : Prop :=
  ∀ (s : State) (v : Word) (rest : List HostEvent), s.resetHeld = false →
    let s' := { s with pending := rest }
    (step { s with pending := .access (.write 0x008 32 v) :: rest } =
        .next { s' with inMode := some (v.extractLsb' 0 2) } ∧
      readReg { s' with inMode := some (v.extractLsb' 0 2) } .inMode = some (v &&& 3)) ∧
    (step { s with pending := .access (.write 0x00C 32 v) :: rest } =
        .next { s' with inLen := some (v.extractLsb' 0 16) } ∧
      readReg { s' with inLen := some (v.extractLsb' 0 16) } .inLen = some (v &&& 0xFFFF)) ∧
    (step { s with pending := .access (.write 0x010 32 v) :: rest } =
        .next { s' with regAddr := some (v.extractLsb' 0 16) } ∧
      readReg { s' with regAddr := some (v.extractLsb' 0 16) } .regAddr = some (v &&& 0xFFFF)) ∧
    (step { s with pending := .access (.write 0x014 32 v) :: rest } =
        .next { s' with regRaw := some (v.extractLsb' 0 16) } ∧
      readReg { s' with regRaw := some (v.extractLsb' 0 16) } .regRaw = some (v &&& 0xFFFF)) ∧
    ∀ k, k < s.params.inDepth → s.params.inDepth ≤ maxInDepth →
      ∃ t, step { s with pending := .access (.write (BitVec.ofNat 16 (0x2000 + 4 * k)) 32 v) :: rest } = .next t ∧
        t = { s' with mem := t.mem } ∧
        ∀ o, t.mem.read o = if o = 0x2000 + 4 * k then some v else s.mem.read o

/-- An access the block does not accept is refused, in the order of the checks: width and alignment, reserved offset,
then a write of a read-only register or a read of CMD (R47, R51, R139). -/
def Obligations.RefusedAccessesInOrder : Prop :=
  ∀ (s : State) (o : BitVec 16) (width : Nat) (v : Word) (rest : List HostEvent), s.resetHeld = false →
    let r := regAt s.params.inDepth o.toNat
    let readStep := step { s with pending := .access (.read o width) :: rest }
    let writeStep := step { s with pending := .access (.write o width v) :: rest }
    ((width ≠ 32 ∨ o.toNat % 4 ≠ 0) → readStep = .refused .busAccess ∧ writeStep = .refused .busAccess) ∧
    (width = 32 → o.toNat % 4 = 0 →
      (r = .reserved → readStep = .refused .reservedOffset ∧ writeStep = .refused .reservedOffset) ∧
      (r = .cmd → readStep = .refused .readWriteOnly) ∧
      ((r ∈ [.status, .slaveAddr, .func, .exc, .frameLen, .crcCalc, .crcRecv, .entryCount] ∨
          (∃ k w, r = .entry k w) ∨ ∃ k, r = .frameBuf k) →
        writeStep = .refused .writeReadOnly))

/-- The register map: every register stands at its own offset and at no other aligned offset (R18). -/
def Obligations.RegisterMapIsOneToOne : Prop :=
  ∀ depth : Nat, depth ≤ maxInDepth →
    (∀ r : RegName, r ≠ .reserved → (∀ k w, r = .entry k w → k < entrySlots ∧ w < 4) →
      (∀ k, r = .inBuf k → k < depth) → (∀ k, r = .frameBuf k → k < depth) →
      offsetOf r % 4 = 0 ∧ regAt depth (offsetOf r) = r) ∧
    ∀ o : Nat, o % 4 = 0 → regAt depth o ≠ .reserved → offsetOf (regAt depth o) = o

/-! ### Reset -/

/-- Right after reset STATUS reads 0, every other register holds NONE, no command runs and the parameters are those the
block was built with, whatever they are (R151, R152). -/
def Obligations.ResetLeavesOnlyStatus : Prop :=
  ∀ p : Params,
    readReg (State.resetWith p) .status = some 0 ∧
    (∀ r : RegName, r ≠ .status → readReg (State.resetWith p) r = none) ∧
    (State.resetWith p).engine = none ∧ (State.resetWith p).params = p ∧ (State.resetWith p).resetHeld = false

/-- Releasing an asserted reset gives the state after reset, with the same parameters and tables; the outside's script
and log are no part of the block (R151, R152; the two edges as events are assumption 10). -/
def Obligations.ReleasedResetIsTheResetState : Prop :=
  ∀ (s : State) (rest : List HostEvent), s.resetHeld = true → s.pending = .releaseReset :: rest →
    step s = .next { State.resetWith s.params with pending := rest, readLog := s.readLog }

/-- While reset is asserted no host access is accepted (R151); the refusal's name is the model's (assumption 10). -/
def Obligations.HeldBlockAcceptsNoAccess : Prop :=
  ∀ (s : State) (a : BusAccess) (rest : List HostEvent), s.resetHeld = true → s.pending = .access a :: rest →
    step s = .refused .heldInReset

/-! ### Invariants -/

/-- Every step keeps the invariant of the block: legal parameters, canonical memory inside the register map, no command
half done, reserved bits zero, windows filled exactly up to their counts, and outputs only after a command that leaves
them (R14, R17, R20, R24 to R30, R74, R87, R135). -/
def Obligations.StepKeepsTheBlockInvariant : Prop :=
  ∀ s t : State, BlockInv s → step s = .next t → BlockInv t

/-- The invariant holds right after reset, for every legal choice of parameters (R7, R8, R151). -/
def Obligations.ResetSatisfiesTheBlockInvariant : Prop :=
  (∀ p : Params, legalParams p = true → BlockInv (State.resetWith p)) ∧ BlockInv State.reset

/-- Every step keeps the memory in its canonical form, from any state. -/
def Obligations.StepKeepsMemoryCanonical : Prop :=
  ∀ s t : State, s.mem.wf = true → step s = .next t → t.mem.wf = true

/-- No step changes the parameters and the tables (R32, R152). -/
def Obligations.StepNeverChangesTheParameters : Prop :=
  ∀ s t : State, step s = .next t → t.params = s.params

/-- No step depends on P_BASE, P_BUS_ENDIAN or P_DESC_MERGE (R40, R45, R130). -/
def Obligations.NoStepDependsOnThePlatformParameters : Prop :=
  ∀ (s : State) (base : Nat) (endian : BusEndian) (merge : DescMerge),
    let f := fun t : State =>
      { t with params := { t.params with base := base, busEndian := endian, descMerge := merge } }
    step (f s) =
      match step s with
      | .next t => .next (f t)
      | .fault x => .fault x
      | .refused x => .refused x

/-! ### The ingress stage -/

/-- IN_BYTES in a running command fixes the frame to the low bytes of the slots and changes nothing else (R80). -/
def Obligations.InBytesTakesTheLowBytes : Prop :=
  ∀ (s : State) (w : Working) (vs : List Word), s.engine = some w → SlotsHold s vs →
    exec .inBytes s = .next { s with engine := some { w with frame := vs.map fun v => v.extractLsb' 0 8 } }

/-- IN_HEX in a running command: an even number of hex digits gives a frame of half as many bytes, the first digit of
each pair the high nibble, and changes nothing else; an odd number of characters that are no whitespace fails first;
then a character that is no hex digit fails. The digit values are those of R82 (R81, R82, R83). -/
def Obligations.InHexPairsTheDigits : Prop :=
  (∀ c x : Byte, hexval c = some x ↔
    (0x30 ≤ c.toNat ∧ c.toNat ≤ 0x39 ∧ x.toNat = c.toNat - 0x30) ∨
    (0x41 ≤ c.toNat ∧ c.toNat ≤ 0x46 ∧ x.toNat = c.toNat - 0x41 + 10) ∨
    (0x61 ≤ c.toNat ∧ c.toNat ≤ 0x66 ∧ x.toNat = c.toNat - 0x61 + 10)) ∧
  ∀ (s : State) (w : Working) (vs : List Word), s.engine = some w → SlotsHold s vs →
    let ws : List Byte := [0x09, 0x0A, 0x0B, 0x0C, 0x0D, 0x20, 0xA0]
    let D := (vs.map fun v => v.extractLsb' 0 8).filter fun c => !ws.contains c
    (D.length % 2 = 1 → exec .inHex s = .next (s.failWith w.op .inputOddLength)) ∧
    (D.length % 2 = 0 → (∃ c ∈ D, hexval c = none) → exec .inHex s = .next (s.failWith w.op .inputBadDigit)) ∧
    (D.length % 2 = 0 → (∀ c ∈ D, hexval c ≠ none) →
      ∃ F : List Byte, exec .inHex s = .next { s with engine := some { w with frame := F } } ∧
        F.length = D.length / 2 ∧
        ∀ m h l x y, D[2 * m]? = some h → D[2 * m + 1]? = some l → hexval h = some x → hexval l = some y →
          F[m]? = some ((x <<< 4) ||| y))

/-- IN_WORDS in a running command: elements all in [0,255] give the frame of their low bytes and change nothing else;
any other element fails (R84). -/
def Obligations.InWordsChecksTheRange : Prop :=
  ∀ (s : State) (w : Working) (vs : List Word), s.engine = some w → SlotsHold s vs →
    ((∃ v ∈ vs, v.toInt < 0 ∨ 255 < v.toInt) → exec .inWords s = .next (s.failWith w.op .inputRange)) ∧
    ((∀ v ∈ vs, 0 ≤ v.toInt ∧ v.toInt ≤ 255) →
      exec .inWords s = .next { s with engine := some { w with frame := vs.map fun v => v.extractLsb' 0 8 } })

/-- IN_RESERVED ends the running command with ERR_INPUT_UNSUPPORTED, and so do DECODE_FRAME and CRC_CHECK with IN_MODE 3,
whatever IN_LEN and IN_BUF hold (R85). -/
def Obligations.ReservedModeFailsUnsupported : Prop :=
  ∀ s : State,
    (∀ w, s.engine = some w → exec .inReserved s = .next (s.failWith w.op .inputUnsupported)) ∧
    (s.inMode = some 3 →
      exec .decodeFrame s = .next { s.clearOutputs with status := .inputUnsupported, engine := none } ∧
      exec .crcCheck s = .next { s.clearOutputs with status := .inputUnsupported, engine := none })

/-- The input checks before the decoders, in order, stop DECODE_FRAME and CRC_CHECK: IN_MODE NONE, IN_LEN NONE, IN_LEN
above P_IN_DEPTH, an element NONE (R79, R137, R138, R140). -/
def Obligations.MissingInputsStopTheCommand : Prop :=
  ∀ (s : State) (i : Instr), i = .decodeFrame ∨ i = .crcCheck →
    (s.inMode = none → exec i s = .fault .inputUnwritten) ∧
    ∀ m, s.inMode = some m → m ≠ 3 →
      (s.inLen = none → exec i s = .fault .inputUnwritten) ∧
      ∀ n, s.inLen = some n →
        (s.params.inDepth < n.toNat → exec i s = .refused .inLenTooLarge) ∧
        (n.toNat ≤ s.params.inDepth →
          (∃ k, k < n.toNat ∧ s.mem.read (inBufOffset k) = none) → exec i s = .fault .inputUnwritten)

/-- The three input encodings of the same bytes give the same frame, those bytes, and so the same outputs, by
DECODE_FRAME and by CRC_CHECK (R86). -/
def Obligations.InputEncodingsAreEquivalent : Prop :=
  ∀ (bs : List Byte) (s1 s2 s3 : State), s1.params = s2.params → s2.params = s3.params →
    HoldsAsBytes s1 bs → HoldsAsHex s2 bs → HoldsAsWords s3 bs →
    (∀ op, ∀ s ∈ [s1, s2, s3],
      ingress (s.beginCommand op) = .next ((s.beginCommand op).setEngine { Working.start op with frame := bs })) ∧
    ∀ i : Instr, i = .decodeFrame ∨ i = .crcCheck →
      ∃ t1 t2 t3, exec i s1 = .next t1 ∧ exec i s2 = .next t2 ∧ exec i s3 = .next t3 ∧
        SameOutputs t1 t2 ∧ SameOutputs t2 t3

/-- The length of the frame an input decoder fixes: the number of elements in BYTES and WORDS modes, half the number of
characters that are no whitespace in HEX mode, so never above P_IN_DEPTH (R87). -/
def Obligations.FrameLengthIsBounded : Prop :=
  ∀ (s t : State) (n : BitVec 16) (vs : List Word) (w : Working),
    s.inLen = some n → inputSlots s.mem 0 n.toNat = some vs → t.engine = some w →
    (exec .inBytes s = .next t → w.frame.length = n.toNat ∧ w.frame.length ≤ s.params.inDepth) ∧
    (exec .inWords s = .next t → w.frame.length = n.toNat ∧ w.frame.length ≤ s.params.inDepth) ∧
    (exec .inHex s = .next t →
      w.frame.length = (n.toNat - (vs.map slotByte).countP isSpace) / 2 ∧ w.frame.length ≤ n.toNat / 2 ∧
      w.frame.length ≤ s.params.inDepth)

/-! ### The CRC checker -/

/-- Any body with its own checksum appended, low byte first, passes the check: CrcVerify goes on with both checksums
equal to it, and CRC_CHECK ends OK (R95). -/
def Obligations.AppendedChecksumPasses : Prop :=
  ∀ (s : State) (body : List Byte),
    let c := crcBytes 0xFFFF body
    (∀ w, s.engine = some w → w.frame = body ++ crcTail c →
      crcVerify s = .next { s with crcCalc := some (zext32 c), crcRecv := some (zext32 c),
                                   engine := some { w with acc := c } }) ∧
    (HoldsFrame s (body ++ crcTail c) →
      ∃ t, exec .crcCheck s = .next t ∧ t.status = .ok ∧ t.crcCalc = some (zext32 c) ∧ t.crcRecv = some (zext32 c))

/-- Flipping any one bit of a passing frame, in the body or in the checksum, makes it fail: CrcVerify, CRC_CHECK and, for
frames of four bytes or more, DECODE_FRAME end the command with ERR_CHECKSUM (R96). -/
def Obligations.AnySingleBitFlipFailsTheCheck : Prop :=
  ∀ (s : State) (f : List Byte) (i j : Nat), 2 ≤ f.length → crcCalc f = receivedCrc f → i < f.length → j < 8 →
    (∀ w, s.engine = some w → w.frame = flipBit f i j →
      ∃ t, crcVerify s = .next t ∧ t.status = .checksum ∧ t.engine = none) ∧
    (HoldsFrame s (flipBit f i j) →
      (∃ t, exec .crcCheck s = .next t ∧ t.status = .checksum) ∧
      (4 ≤ f.length → ∃ t, exec .decodeFrame s = .next t ∧ t.status = .checksum))

/-- Running the byte step over a whole passing frame ends with zero (R97). -/
def Obligations.PassingFrameHasZeroResidue : Prop :=
  ∀ f : List Byte, 2 ≤ f.length → crcCalc f = receivedCrc f → crcBytes 0xFFFF f = 0

/-- CRC_CHECK, for every frame in every input mode: FRAME_LEN and FRAME_BUF take the frame; a frame of two bytes or more has
both checksums reported; STATUS is OK exactly when they agree; every other output holds NONE and nothing else changes
(R93, R108, R135). -/
def Obligations.CrcCheckReportsFrameAndChecksums : Prop :=
  ∀ (s : State) (f : List Byte), HoldsFrame s f →
    let p := { s.clearOutputs.publishFrame f with engine := none }
    let q := { p with crcCalc := some (zext32 (crcCalc f)), crcRecv := some (zext32 (receivedCrc f)) }
    exec .crcCheck s =
      .next (if f.length < 2 then { p with status := .checksum }
             else if crcCalc f = receivedCrc f then { q with status := .ok }
             else { q with status := .checksum })

/-! ### The frame handlers -/

/-- RHR in a running command: one entry per position, at address 1 + i, from the value at 3 + 2i; ERR_PAYLOAD_OVERRUN
exactly when there is a position and the last value byte lies past the frame (R62, R66, R67, R104). -/
def Obligations.RhrDecodesEveryPosition : Prop :=
  ∀ (s : State) (w : Working) (bc : Byte), s.engine = some w → w.frame[2]? = some bc →
    let n := bc.toNat / 2
    (1 ≤ n → w.frame.length < 2 * n + 3 → exec .rhr s = .next (s.failWith w.op .payloadOverrun)) ∧
    (n = 0 ∨ 2 * n + 3 ≤ w.frame.length →
      ∃ w', exec .rhr s = .next { s with engine := some w' } ∧
        w'.entries = w.entries ++ rhrEntries s.params.regTable w.frame n ∧
        w'.exc = { valid := false, code := 0, text := 0xFF } ∧
        w'.frame = w.frame ∧ w'.op = w.op ∧ w'.acc = w.acc)

/-- WSR in a running command: both operands are read before the lookup, a frame of fewer than six bytes fails, a
described address gives one entry with the write flag, an unknown address none (R63, R66, R105). -/
def Obligations.WsrDecodesOneRegister : Prop :=
  ∀ (s : State) (w : Working), s.engine = some w →
    let a := valueAt w.frame 2
    let raw := valueAt w.frame 4
    let noExc : ExcInfo := { valid := false, code := 0, text := 0xFF }
    (w.frame.length < 6 → exec .wsr s = .next (s.failWith w.op .payloadOverrun)) ∧
    (6 ≤ w.frame.length → lookup s.params.regTable a = none →
      exec .wsr s = .next { s with engine := some { w with exc := noExc } }) ∧
    (6 ≤ w.frame.length → lookup s.params.regTable a ≠ none →
      let e := regDecodeEntry s.params.regTable a raw true
      exec .wsr s = .next (s.setEngine { w with
        exc := noExc, raw := raw, write := true, entries := w.entries ++ [e] }))

/-- EXC in a running command: the exception fields take the exception code and its text, nothing else changes
(R64, R106). -/
def Obligations.ExcTakesTheExceptionCode : Prop :=
  ∀ (s : State) (w : Working) (ec : Byte), s.engine = some w → w.frame[2]? = some ec →
    exec .exc s = .next { s with engine := some { w with exc :=
      { valid := true, code := ec,
        text := if ec = 1 then 28 else if ec = 2 then 29 else if ec = 3 then 30 else if ec = 4 then 31 else 17 } } }

/-- OTHER in a running command: no entry, no exception, whatever the frame and the function code (R65, R107). For the
codes 0x03, 0x06 and 0x83, which R69 gives to other handlers, this is the model's choice (assumption 7). -/
def Obligations.OtherCarriesNoPayload : Prop :=
  ∀ (s : State) (w : Working) (fc : Byte), s.engine = some w →
    exec (.other fc) s =
      .next { s with engine := some { w with exc := { valid := false, code := 0, text := 0xFF } } }

/-! ### The value decoder -/

/-- ERROR_CODE: raw 0 to 16 has the text of its own number, anything else T17 (R122). -/
def Obligations.ErrorCodeEntryOfRaw : Prop :=
  ∀ (s : State) (w : Working) (j : Nat) (d : Descriptor), s.engine = some w →
    lookup s.params.regTable 0x0006 = some (j, d) →
    exec .errorCode s = .next { s with engine := some { w with entries := w.entries ++
      [{ kind := .errorCode, writeOp := w.write, readOnly := d.readOnly, waterShortage := false, running := false,
         textId := BitVec.ofNat 8 (if w.raw.toNat ≤ 16 then w.raw.toNat else 17), descIndex := BitVec.ofNat 8 j,
         address := 0x0006, raw := w.raw, valueMilli := 0 }] } }

/-- STATUS_FLAGS: bit 0 is WATER_SHORTAGE, bit 1 is RUNNING, the other bits are not decoded (R123). -/
def Obligations.StatusFlagsEntryOfRaw : Prop :=
  ∀ (s : State) (w : Working) (j : Nat) (d : Descriptor), s.engine = some w →
    lookup s.params.regTable 0x0007 = some (j, d) →
    exec .statusFlags s = .next { s with engine := some { w with entries := w.entries ++
      [{ kind := .statusFlags, writeOp := w.write, readOnly := d.readOnly,
         waterShortage := decide (w.raw.toNat % 2 = 1), running := decide (w.raw.toNat / 2 % 2 = 1),
         textId := 0xFF, descIndex := BitVec.ofNat 8 j, address := 0x0007, raw := w.raw, valueMilli := 0 }] } }

/-- CARRIER_FREQ: exactly raw 72 is "H", anything else "L" (R124). -/
def Obligations.CarrierFreqEntryOfRaw : Prop :=
  ∀ (s : State) (w : Working) (j : Nat) (d : Descriptor), s.engine = some w →
    lookup s.params.regTable 0x0014 = some (j, d) →
    exec .carrierFreq s = .next { s with engine := some { w with entries := w.entries ++
      [{ kind := .carrierFreq, writeOp := w.write, readOnly := d.readOnly, waterShortage := false, running := false,
         textId := if w.raw = 72 then 39 else 40, descIndex := BitVec.ofNat 8 j, address := 0x0014, raw := w.raw,
         valueMilli := 0 }] } }

/-- STATUS_CMD: 0, 1, 4 and 17 have their texts, anything else T22 (R125). -/
def Obligations.StatusCmdEntryOfRaw : Prop :=
  ∀ (s : State) (w : Working) (j : Nat) (d : Descriptor), s.engine = some w →
    lookup s.params.regTable 0x1001 = some (j, d) →
    exec .statusCmd s = .next { s with engine := some { w with entries := w.entries ++
      [{ kind := .statusCmd, writeOp := w.write, readOnly := d.readOnly, waterShortage := false, running := false,
         textId := if w.raw = 0 then 18 else if w.raw = 1 then 19 else if w.raw = 4 then 20
                   else if w.raw = 17 then 21 else 22,
         descIndex := BitVec.ofNat 8 j, address := 0x1001, raw := w.raw, valueMilli := 0 }] } }

/-- MEAS_RANGE: 6, 10, 16 and 25 have their texts, anything else the template T27 (R126). -/
def Obligations.MeasRangeEntryOfRaw : Prop :=
  ∀ (s : State) (w : Working) (j : Nat) (d : Descriptor), s.engine = some w →
    lookup s.params.regTable 0x0019 = some (j, d) →
    exec .measRange s = .next { s with engine := some { w with entries := w.entries ++
      [{ kind := .measRange, writeOp := w.write, readOnly := d.readOnly, waterShortage := false, running := false,
         textId := if w.raw = 6 then 23 else if w.raw = 10 then 24 else if w.raw = 16 then 25
                   else if w.raw = 25 then 26 else 27,
         descIndex := BitVec.ofNat 8 j, address := 0x0019, raw := w.raw, valueMilli := 0 }] } }

/-- GENERIC: the raw value times 1000 under the scale, rounded half up, or times 1000 without one (R120, R121). At an
override address, where R70 does not select GENERIC, this is the model's choice (assumption 7). -/
def Obligations.GenericEntryOfRaw : Prop :=
  ∀ (s : State) (w : Working) (a : Half) (j : Nat) (d : Descriptor), s.engine = some w →
    lookup s.params.regTable a = some (j, d) →
    exec (.generic a) s = .next { s with engine := some { w with entries := w.entries ++
      [{ kind := .generic, writeOp := w.write, readOnly := d.readOnly, waterShortage := false, running := false,
         textId := 0xFF, descIndex := BitVec.ofNat 8 j, address := a, raw := w.raw,
         valueMilli := BitVec.ofNat 48 (match d.scale with
           | none => w.raw.toNat * 1000
           | some sc => (2 * (w.raw.toNat * sc.num.toNat * 1000) + sc.den.toNat) / (2 * sc.den.toNat)) }] } }

/-- UNKNOWN: the raw value itself, no descriptor, no text, no write flag (R127). -/
def Obligations.UnknownEntryOfRaw : Prop :=
  ∀ (s : State) (w : Working) (a : Half), s.engine = some w → lookup s.params.regTable a = none →
    exec (.unknown a) s = .next { s with engine := some { w with entries := w.entries ++
      [{ kind := .unknown, writeOp := false, readOnly := false, waterShortage := false, running := false,
         textId := 0xFF, descIndex := 0xFF, address := a, raw := w.raw,
         valueMilli := BitVec.ofNat 48 (w.raw.toNat * 1000) }] } }

/-- Every address and every raw value gives exactly one entry and no failure, under every table: the variant the address
decodes to appends the entry of RegDecode (R119, R132). -/
def Obligations.RegDecodeIsTotal : Prop :=
  ∀ (s : State) (w : Working) (a : Half), s.engine = some w →
    exec (decode s.params.regTable (.regAddr a)) s = .next { s with engine := some { w with
      entries := w.entries ++ [regDecodeEntry s.params.regTable a w.raw w.write] } }

/-- The scales of a table matter only for GENERIC: the entry of an override address, or of an address with no
descriptor, is the same under every choice of them (R133). -/
def Obligations.OverridesIgnoreTheScale : Prop :=
  ∀ (tab : RegTable) (g : Descriptor → Option Scale) (a raw : Half) (write : Bool),
    a ∈ [(0x0006 : Half), 0x0007, 0x0014, 0x0019, 0x1001] ∨ lookup tab a = none →
    regDecodeEntry (tab.map fun d => { d with scale := g d }) a raw write = regDecodeEntry tab a raw write

/-- The scaled value is the nearest thousandth, an exact half rounded up, and VALUE_MILLI holds it without overflow
(R120, R121). -/
def Obligations.ScaledValueIsNearestAndFits : Prop :=
  (∀ p q : Nat, 1 ≤ q → 2 * q * roundHalfUp p q ≤ 2 * p + q ∧ 2 * p + q < 2 * q * (roundHalfUp p q + 1)) ∧
  ∀ (b : Entry) (d : Descriptor), legalScale d = true →
    (genericEntry b d).valueMilli.toNat = scaledMilli d.scale b.raw

/-- In a legal table the five override addresses have descriptors of their names, at a position below 20, and the
addresses 0x0000 and 0xFFFF have none (R8, R36, R127). -/
def Obligations.LegalTablesDescribeTheOverrides : Prop :=
  ∀ tab : RegTable, legalTable tab = true →
    (∀ p ∈ overrideNames, ∃ j d, lookup tab p.1 = some (j, d) ∧ tab[j]? = some d ∧ j < 20 ∧ d.name = p.2) ∧
    lookup tab 0x0000 = none ∧ lookup tab 0xFFFF = none

/-- A position of a 0x03 frame whose address has no descriptor gives an UNKNOWN entry keyed by its address that carries
the raw value unchanged (R115). -/
def Obligations.UnknownRegistersArePreserved : Prop :=
  ∀ (s : State) (w : Working) (bc : Byte) (i : Nat), s.engine = some w → w.frame[2]? = some bc →
    2 * (bc.toNat / 2) + 3 ≤ w.frame.length → i < bc.toNat / 2 → lookup s.params.regTable (logicalAddress i) = none →
    ∃ t w' e, exec .rhr s = .next t ∧ t.engine = some w' ∧ w'.entries[w.entries.length + i]? = some e ∧
      e.kind = .unknown ∧ e.raw = valueAt w.frame (3 + 2 * i) ∧ e.address = BitVec.ofNat 16 (0x0001 + i) ∧
      entryKey s.params.regTable e = some ("unknown_0x" ++ hex4 (BitVec.ofNat 16 (0x0001 + i)))

/-! ### The commands -/

/-- CMD_RESERVED ends with ERR_BAD_COMMAND, every output but STATUS is NONE and nothing else changes (R110, R135). -/
def Obligations.ReservedCommandFails : Prop :=
  ∀ s : State, exec .cmdReserved s = .next { s.clearOutputs with status := .badCommand, engine := none }

/-- REG_DECODE with both operands written ends OK with the one entry of RegDecode, every other output NONE; with one of
them NONE it faults (R109, R132). -/
def Obligations.RegDecodeCommandGivesOneEntry : Prop :=
  ∀ s : State,
    (∀ a raw, s.regAddr = some a → s.regRaw = some raw →
      let e := regDecodeEntry s.params.regTable a raw false
      exec .regDecode s =
        .next { s.clearOutputs with
          entryCount := some 1, mem := (s.mem.clear inOutputWindow).writeWords 0x1000 (pack e),
          status := .ok, engine := none }) ∧
    (s.regAddr = none ∨ s.regRaw = none → exec .regDecode s = .fault .inputUnwritten)

/-- DECODE_FRAME, for every frame of any length and content in every input mode: the engine's staged command gives
exactly what the source's pure decoder gives, outputs, STATUS and frame (R2, R99 to R107, R135, R140). -/
def Obligations.DecodeFrameRefinesThePureDecoder : Prop :=
  ∀ (s : State) (f : List Byte), HoldsFrame s f →
    exec .decodeFrame s = .next (decodeOutcome s f (decodeReference s.params.regTable f))

/-- After a successful DECODE_FRAME, FRAME_BUF and ENTRY read back as the frame and the packed entries, and
every slot above them holds NONE (R27, R29, R99, R111). -/
def Obligations.DecodeFrameWindowsReadBack : Prop :=
  ∀ (s t : State) (f : List Byte) (es : List Entry) (x : ExcInfo), HoldsFrame s f →
    decodeReference s.params.regTable f = .ok (es, x) → exec .decodeFrame s = .next t →
    (∀ k, readReg t (.frameBuf k) = (f[k]?).map zext32) ∧
    ∀ k w, k < entrySlots → w < 4 → readReg t (.entry k w) = (es[k]?).bind fun e => (pack e)[w]?

/-- A DECODE_FRAME that fails leaves no output but STATUS, whatever the input mode (R99, R135). -/
def Obligations.FailedDecodeFrameLeavesNothing : Prop :=
  ∀ s t : State, exec .decodeFrame s = .next t → t.status ≠ .ok →
    OutputsNone t ∧ t.status ∈ [StatusCode.inputUnsupported, .inputOddLength, .inputBadDigit, .inputRange,
      .frameTooShort, .checksum, .payloadOverrun]

/-- No command changes an input register, the parameters or the outside's script and log, and after it no command runs
(R14, R135, R150, R154). -/
def Obligations.CommandsKeepTheInputs : Prop :=
  ∀ (s t : State) (i : Instr), i.format = .cmd → exec i s = .next t →
    SameInputs s t ∧ SameOutside s t ∧ t.engine = none

/-- Two states with the same parameters and input registers give the same outcome of every command: the same outputs, the
same fault or the same refusal, whatever their outputs, STATUS and engine held before (R113, R143). -/
def Obligations.CommandsDependOnInputsOnly : Prop :=
  ∀ (s1 s2 : State) (i : Instr), i.format = .cmd → s1.params = s2.params → SameInputs s1 s2 →
    (∀ t1, exec i s1 = .next t1 → ∃ t2, exec i s2 = .next t2 ∧ SameOutputs t1 t2) ∧
    (∀ x, exec i s1 = .fault x → exec i s2 = .fault x) ∧
    (∀ x, exec i s1 = .refused x → exec i s2 = .refused x)

/-- Running DECODE_FRAME again on the state it left changes nothing at all (R113). -/
def Obligations.DecodeFrameIsIdempotent : Prop :=
  ∀ s t : State, s.mem.wf = true → exec .decodeFrame s = .next t → exec .decodeFrame t = .next t

/-- The entry count of a successful DECODE_FRAME: F[2] >> 1 for 0x03, 0 or 1 for 0x06, 0 for every other function code,
so at most 127 (R114). -/
def Obligations.EntryCountFollowsTheFunctionCode : Prop :=
  ∀ s t : State, exec .decodeFrame s = .next t → t.status = .ok →
    ∃ fc b2 n : Word, t.mem.read (frameBufOffset 1) = some fc ∧ t.mem.read (frameBufOffset 2) = some b2 ∧
      t.entryCount = some n ∧ n.toNat ≤ 127 ∧ n.toNat ≤ entrySlots ∧
      (fc = 0x03 → n = b2 >>> 1) ∧ (fc = 0x06 → n = 0 ∨ n = 1) ∧ (fc ≠ 0x03 → fc ≠ 0x06 → n = 0)

/-- Two frames with the same slave address and the same function code other than 0x03, 0x06 and 0x83, both with valid
checksums, give the same outputs apart from FRAME_LEN, FRAME_BUF, CRC_CALC and CRC_RECV (R116). -/
def Obligations.StructuralDecodingIgnoresThePayload : Prop :=
  ∀ (s1 s2 : State) (f1 f2 : List Byte), s1.params = s2.params → HoldsFrame s1 f1 → HoldsFrame s2 f2 →
    4 ≤ f1.length → 4 ≤ f2.length → crcCalc f1 = receivedCrc f1 → crcCalc f2 = receivedCrc f2 →
    f1.take 2 = f2.take 2 → f1[1]? ≠ some 0x03 → f1[1]? ≠ some 0x06 → f1[1]? ≠ some 0x83 →
    ∃ t1 t2, exec .decodeFrame s1 = .next t1 ∧ exec .decodeFrame s2 = .next t2 ∧
      t1.status = .ok ∧ t2.status = .ok ∧ t1.slaveAddr = t2.slaveAddr ∧ t1.func = t2.func ∧ t1.exc = t2.exc ∧
      t1.entryCount = t2.entryCount ∧ ∀ o, inEntryWindow o = true → t1.mem.read o = t2.mem.read o

/-- The canonical result of a successful DECODE_FRAME, under legal parameters: header, name, raw data,
registers map and error are built from the outputs, and all of them can be rendered (R102, R106, R112, R128, R129). -/
def Obligations.CanonicalResultOfDecodeFrame : Prop :=
  ∀ (s t : State) (f : List Byte) (es : List Entry) (x : ExcInfo), legalParams s.params = true → HoldsFrame s f →
    decodeReference s.params.regTable f = .ok (es, x) → exec .decodeFrame s = .next t →
    ∃ r name regs, canonicalResult t = some r ∧ render (fName (f.getD 1 0)) = some name ∧
      registersMap s.params es = some regs ∧
      r.slaveAddress = (f.getD 0 0).toNat ∧ r.functionCode = (f.getD 1 0).toNat ∧ r.functionName = name ∧
      r.rawData = rawData f ∧ r.registers = regs ∧
      (x.valid = false → r.error = none) ∧
      (x.valid = true → ∃ text, render (excTxt x.code) = some text ∧
        r.error = some { code := x.code.toNat, description := "Modbus Error: " ++ text, modbusError := true })

/-- Within one frame no two entries share a key, under a legal table (R8, R128). -/
def Obligations.EntryKeysAreDistinct : Prop :=
  ∀ (tab : RegTable) (f : List Byte) (es : List Entry) (x : ExcInfo), legalTable tab = true →
    decodeReference tab f = .ok (es, x) →
    (es.map (entryKey tab)).Nodup ∧ ∀ e ∈ es, (entryKey tab e).isSome = true

/-- Every function code but 0x03, 0x06 and 0x83 takes OTHER, whatever the frame holds past F[1]: the router adds no
entry and sets no exception, and nothing else changes (R107). -/
def Obligations.OtherCodesDecodeStructurally : Prop :=
  ∀ (s : State) (w : Working) (fc : Byte), s.engine = some w → w.frame[1]? = some fc →
    fc ≠ 0x03 → fc ≠ 0x06 → fc ≠ 0x83 →
    decode s.params.regTable (.frame fc) = .other fc ∧
    route s = .next { s with engine := some { w with exc := { valid := false, code := 0, text := 0xFF } } }
end

