-- ==== Sys2Proof/Laws/Memory.lean ====
section
/-! SUPPORT. The laws of the memory operations: what a read gives after each of them, that each keeps the canonical
form, and that canonical memories with the same reads are equal. -/

namespace Sys2Proof.Machine

/-! ### Reads -/

theorem readCells_writeCells (o p : Nat) (v : Word) (l : List (Nat × Word)) :
    readCells (writeCells o v l) p = if p = o then some v else readCells l p := by
  induction l with
  | nil =>
    simp only [writeCells, readCells]
    by_cases h : p = o
    · simp [h]
    · simp [h, Ne.symm h]
  | cons c rest ih =>
    simp only [writeCells]
    split
    · simp only [readCells]
      by_cases h : p = o
      · simp [h]
      · simp [h, Ne.symm h]
    · split
      · rename_i h1 h2
        simp only [readCells]
        by_cases h : p = o
        · simp [h]
        · simp [h, Ne.symm h, ← h2]
      · rename_i h1 h2
        simp only [readCells, ih]
        by_cases h : p = o
        · subst h; simp [Ne.symm h2]
        · simp [h]

/-- Reading where a word was written gives the word. -/
@[simp] theorem Memory.read_write_same (m : Memory) (o : Nat) (v : Word) : (m.write o v).read o = some v := by
  simp [Memory.read, Memory.write, readCells_writeCells]

/-- A write leaves every other offset alone. -/
theorem Memory.read_write_other (m : Memory) (o p : Nat) (v : Word) (h : p ≠ o) :
    (m.write o v).read p = m.read p := by
  simp [Memory.read, Memory.write, readCells_writeCells, h]

theorem Memory.read_write (m : Memory) (o p : Nat) (v : Word) :
    (m.write o v).read p = if p = o then some v else m.read p := by
  simp [Memory.read, Memory.write, readCells_writeCells]

theorem readCells_filter (p : Nat → Bool) (o : Nat) (l : List (Nat × Word)) :
    readCells (l.filter fun c => !p c.1) o = if p o then none else readCells l o := by
  induction l with
  | nil => simp [readCells]
  | cons c rest ih =>
    by_cases hc : p c.1 = true
    · rw [List.filter_cons_of_neg (by simp [hc]), ih]
      by_cases ho : c.1 = o
      · subst ho; simp [hc]
      · simp [readCells, ho]
    · rw [List.filter_cons_of_pos (by simp [hc])]
      simp only [readCells, ih]
      by_cases ho : c.1 = o
      · subst ho; simp [hc]
      · simp [ho]

/-- A cleared cell holds NONE, every other cell is unchanged. -/
@[simp] theorem Memory.read_clear (m : Memory) (p : Nat → Bool) (o : Nat) :
    (m.clear p).read o = if p o then none else m.read o := readCells_filter p o m.cells

@[simp] theorem Memory.read_empty (o : Nat) : Memory.empty.read o = none := rfl

/-- Offsets below the first word written are unchanged. -/
theorem Memory.read_writeWords_below (m : Memory) (o p : Nat) (ws : List Word) (h : p < o) :
    (m.writeWords o ws).read p = m.read p := by
  induction ws generalizing m o with
  | nil => rfl
  | cons v rest ih =>
    rw [Memory.writeWords, ih _ _ (by omega), Memory.read_write_other _ _ _ _ (by omega)]

/-- The word `k` of the words written. -/
theorem Memory.read_writeWords_at (m : Memory) (o k : Nat) (ws : List Word) (h : k < ws.length) :
    (m.writeWords o ws).read (o + 4 * k) = some ws[k] := by
  induction ws generalizing m o k with
  | nil => simp at h
  | cons v rest ih =>
    rw [Memory.writeWords]
    cases k with
    | zero => rw [Memory.read_writeWords_below _ _ _ _ (by omega)]; simp
    | succ k =>
      have h' : k < rest.length := by simpa using h
      have e : o + 4 * (k + 1) = o + 4 + 4 * k := by omega
      rw [e, ih _ _ _ h']; simp

/-- Every offset that is none of those written is unchanged. -/
theorem Memory.read_writeWords_other (m : Memory) (o p : Nat) (ws : List Word)
    (h : ∀ k, k < ws.length → p ≠ o + 4 * k) : (m.writeWords o ws).read p = m.read p := by
  induction ws generalizing m o with
  | nil => rfl
  | cons v rest ih =>
    rw [Memory.writeWords, ih _ _ ?_, Memory.read_write_other _ _ _ _ (by simpa using h 0 (by simp))]
    intro k hk
    have := h (k + 1) (by simpa using hk)
    omega

/-- What every aligned offset from `o` on reads as after consecutive writes. -/
theorem Memory.read_writeWords (m : Memory) (o k : Nat) (ws : List Word) :
    (m.writeWords o ws).read (o + 4 * k) = if h : k < ws.length then some ws[k] else m.read (o + 4 * k) := by
  split
  · exact Memory.read_writeWords_at _ _ _ _ _
  · exact Memory.read_writeWords_other _ _ _ _ (by intro j hj; omega)

/-! ### The canonical form -/

theorem mem_writeCells {o : Nat} {v : Word} {l : List (Nat × Word)} {c : Nat × Word}
    (h : c ∈ writeCells o v l) : c = (o, v) ∨ c ∈ l := by
  induction l with
  | nil => simpa [writeCells] using h
  | cons d rest ih =>
    simp only [writeCells] at h
    split at h
    · simpa using h
    · split at h
      · rcases List.mem_cons.1 h with h | h
        · exact .inl h
        · exact .inr (List.mem_cons_of_mem _ h)
      · rcases List.mem_cons.1 h with h | h
        · exact .inr (h ▸ List.mem_cons_self)
        · rcases ih h with h | h
          · exact .inl h
          · exact .inr (List.mem_cons_of_mem _ h)

theorem pairwise_writeCells (o : Nat) (v : Word) (l : List (Nat × Word))
    (h : l.Pairwise (fun a b => a.1 < b.1)) : (writeCells o v l).Pairwise (fun a b => a.1 < b.1) := by
  induction l with
  | nil => simp [writeCells]
  | cons c rest ih =>
    obtain ⟨hc, hr⟩ := List.pairwise_cons.1 h
    simp only [writeCells]
    split
    · rename_i ho
      refine List.pairwise_cons.2 ⟨?_, h⟩
      intro d hd
      rcases List.mem_cons.1 hd with rfl | hd
      · exact ho
      · have := hc d hd; simp only at *; omega
    · split
      · rename_i _ ho
        exact List.pairwise_cons.2 ⟨fun d hd => by have := hc d hd; simp only at *; omega, hr⟩
      · rename_i h1 h2
        refine List.pairwise_cons.2 ⟨?_, ih hr⟩
        intro d hd
        rcases mem_writeCells hd with rfl | hd
        · simp only; omega
        · exact hc d hd

theorem Memory.wf_iff (m : Memory) : m.wf = true ↔ m.cells.Pairwise (fun a b => a.1 < b.1) := by
  simp [Memory.wf]

@[simp] theorem Memory.wf_empty : Memory.empty.wf = true := rfl

/-- A write keeps the canonical form. -/
theorem Memory.wf_write (m : Memory) (o : Nat) (v : Word) (h : m.wf = true) : (m.write o v).wf = true :=
  (Memory.wf_iff _).2 (pairwise_writeCells o v _ ((Memory.wf_iff _).1 h))

/-- Consecutive writes keep the canonical form. -/
theorem Memory.wf_writeWords (m : Memory) (o : Nat) (ws : List Word) (h : m.wf = true) :
    (m.writeWords o ws).wf = true := by
  induction ws generalizing m o with
  | nil => exact h
  | cons v rest ih => exact ih _ _ (Memory.wf_write _ _ _ h)

/-- Clearing keeps the canonical form. -/
theorem Memory.wf_clear (m : Memory) (p : Nat → Bool) (h : m.wf = true) : (m.clear p).wf = true :=
  (Memory.wf_iff _).2 (((Memory.wf_iff _).1 h).filter _)

/-! ### Equal reads, equal memories -/

theorem readCells_ne_none_of_mem {l : List (Nat × Word)} {c : Nat × Word} (h : c ∈ l) :
    readCells l c.1 ≠ none := by
  induction l with
  | nil => cases h
  | cons d rest ih =>
    simp only [readCells]
    split
    · simp
    · rename_i hne
      rcases List.mem_cons.1 h with rfl | h
      · exact absurd rfl hne
      · exact ih h

/-- Clearing cells that hold NONE changes nothing. -/
theorem Memory.clear_eq_self (m : Memory) (p : Nat → Bool) (h : ∀ o, p o = true → m.read o = none) :
    m.clear p = m := by
  cases m with
  | mk cells =>
    refine congrArg Memory.mk (List.filter_eq_self.2 fun c hc => ?_)
    by_contra hp
    exact readCells_ne_none_of_mem hc (h c.1 (by simpa using hp))

/-- Clearing twice clears once. -/
@[simp] theorem Memory.clear_clear (m : Memory) (p : Nat → Bool) : (m.clear p).clear p = m.clear p :=
  Memory.clear_eq_self _ _ (by intro o ho; simp [ho])

theorem readCells_eq_none_of_below {l : List (Nat × Word)} {o : Nat} (h : ∀ c ∈ l, o < c.1) :
    readCells l o = none := by
  induction l with
  | nil => rfl
  | cons c rest ih =>
    have hc := h c List.mem_cons_self
    rw [readCells, if_neg (by omega), ih fun d hd => h d (List.mem_cons_of_mem _ hd)]

theorem cells_ext {l m : List (Nat × Word)} (hl : l.Pairwise (fun a b => a.1 < b.1))
    (hm : m.Pairwise (fun a b => a.1 < b.1)) (h : ∀ o, readCells l o = readCells m o) : l = m := by
  induction l generalizing m with
  | nil =>
    cases m with
    | nil => rfl
    | cons d rest => have := h d.1; simp [readCells] at this
  | cons c rest ih =>
    obtain ⟨hc, hr⟩ := List.pairwise_cons.1 hl
    cases m with
    | nil => have := h c.1; simp [readCells] at this
    | cons d rest' =>
      obtain ⟨hd, hr'⟩ := List.pairwise_cons.1 hm
      have hcd : c.1 = d.1 := by
        by_contra hne
        rcases Nat.lt_or_gt_of_ne hne with hlt | hlt
        · have := h c.1
          rw [readCells, if_pos rfl, readCells_eq_none_of_below] at this
          · simp at this
          · intro e he
            rcases List.mem_cons.1 he with rfl | he
            · exact hlt
            · exact lt_trans hlt (hd e he)
        · have := h d.1
          rw [eq_comm, readCells, if_pos rfl, readCells_eq_none_of_below] at this
          · simp at this
          · intro e he
            rcases List.mem_cons.1 he with rfl | he
            · exact hlt
            · exact lt_trans hlt (hc e he)
      have hv : c.2 = d.2 := by
        have := h c.1
        simp [readCells, hcd] at this
        exact this
      have hrest : rest = rest' := by
        apply ih hr hr'
        intro o
        have ho := h o
        simp only [readCells, hcd] at ho
        by_cases hod : d.1 = o
        · rw [readCells_eq_none_of_below, readCells_eq_none_of_below]
          · intro e he; exact hod ▸ hd e he
          · intro e he; exact hod ▸ hcd ▸ hc e he
        · simpa [hod] using ho
      rw [hrest, Prod.ext hcd hv]

/-- Canonical memories that read alike everywhere are equal. -/
theorem Memory.ext_read {m n : Memory} (hm : m.wf = true) (hn : n.wf = true) (h : ∀ o, m.read o = n.read o) :
    m = n := by
  cases m; cases n
  exact congrArg Memory.mk (cells_ext ((Memory.wf_iff _).1 hm) ((Memory.wf_iff _).1 hn) h)

end Sys2Proof.Machine
end

