-- ==== Sys2Proof/Laws/State.lean ====
section
/-! SUPPORT. One lemma per field of State per named update, so that no proof unfolds a record update. -/

namespace Sys2Proof.Machine

variable (s : State)

/-! ### `clearOutputs` -/

@[simp] theorem clearOutputs_params : s.clearOutputs.params = s.params := rfl
@[simp] theorem clearOutputs_pending : s.clearOutputs.pending = s.pending := rfl
@[simp] theorem clearOutputs_readLog : s.clearOutputs.readLog = s.readLog := rfl
@[simp] theorem clearOutputs_resetHeld : s.clearOutputs.resetHeld = s.resetHeld := rfl
@[simp] theorem clearOutputs_status : s.clearOutputs.status = s.status := rfl
@[simp] theorem clearOutputs_inMode : s.clearOutputs.inMode = s.inMode := rfl
@[simp] theorem clearOutputs_inLen : s.clearOutputs.inLen = s.inLen := rfl
@[simp] theorem clearOutputs_regAddr : s.clearOutputs.regAddr = s.regAddr := rfl
@[simp] theorem clearOutputs_regRaw : s.clearOutputs.regRaw = s.regRaw := rfl
@[simp] theorem clearOutputs_slaveAddr : s.clearOutputs.slaveAddr = none := rfl
@[simp] theorem clearOutputs_func : s.clearOutputs.func = none := rfl
@[simp] theorem clearOutputs_exc : s.clearOutputs.exc = none := rfl
@[simp] theorem clearOutputs_frameLen : s.clearOutputs.frameLen = none := rfl
@[simp] theorem clearOutputs_crcCalc : s.clearOutputs.crcCalc = none := rfl
@[simp] theorem clearOutputs_crcRecv : s.clearOutputs.crcRecv = none := rfl
@[simp] theorem clearOutputs_entryCount : s.clearOutputs.entryCount = none := rfl
@[simp] theorem clearOutputs_mem : s.clearOutputs.mem = s.mem.clear inOutputWindow := rfl
@[simp] theorem clearOutputs_engine : s.clearOutputs.engine = s.engine := rfl

/-! ### `clearUnkept_crcCheck` -/

@[simp] theorem clearUnkept_crcCheck_params : (s.clearUnkept .crcCheck).params = s.params := rfl
@[simp] theorem clearUnkept_crcCheck_pending : (s.clearUnkept .crcCheck).pending = s.pending := rfl
@[simp] theorem clearUnkept_crcCheck_readLog : (s.clearUnkept .crcCheck).readLog = s.readLog := rfl
@[simp] theorem clearUnkept_crcCheck_resetHeld : (s.clearUnkept .crcCheck).resetHeld = s.resetHeld := rfl
@[simp] theorem clearUnkept_crcCheck_status : (s.clearUnkept .crcCheck).status = s.status := rfl
@[simp] theorem clearUnkept_crcCheck_inMode : (s.clearUnkept .crcCheck).inMode = s.inMode := rfl
@[simp] theorem clearUnkept_crcCheck_inLen : (s.clearUnkept .crcCheck).inLen = s.inLen := rfl
@[simp] theorem clearUnkept_crcCheck_regAddr : (s.clearUnkept .crcCheck).regAddr = s.regAddr := rfl
@[simp] theorem clearUnkept_crcCheck_regRaw : (s.clearUnkept .crcCheck).regRaw = s.regRaw := rfl
@[simp] theorem clearUnkept_crcCheck_slaveAddr : (s.clearUnkept .crcCheck).slaveAddr = none := rfl
@[simp] theorem clearUnkept_crcCheck_func : (s.clearUnkept .crcCheck).func = none := rfl
@[simp] theorem clearUnkept_crcCheck_exc : (s.clearUnkept .crcCheck).exc = none := rfl
@[simp] theorem clearUnkept_crcCheck_frameLen : (s.clearUnkept .crcCheck).frameLen = s.frameLen := rfl
@[simp] theorem clearUnkept_crcCheck_crcCalc : (s.clearUnkept .crcCheck).crcCalc = s.crcCalc := rfl
@[simp] theorem clearUnkept_crcCheck_crcRecv : (s.clearUnkept .crcCheck).crcRecv = s.crcRecv := rfl
@[simp] theorem clearUnkept_crcCheck_entryCount : (s.clearUnkept .crcCheck).entryCount = none := rfl
@[simp] theorem clearUnkept_crcCheck_mem : (s.clearUnkept .crcCheck).mem = s.mem.clear inEntryWindow := rfl
@[simp] theorem clearUnkept_crcCheck_engine : (s.clearUnkept .crcCheck).engine = s.engine := rfl

/-! ### `beginCommand` -/

@[simp] theorem beginCommand_params (op : CmdOp) : (s.beginCommand op).params = s.params := rfl
@[simp] theorem beginCommand_pending (op : CmdOp) : (s.beginCommand op).pending = s.pending := rfl
@[simp] theorem beginCommand_readLog (op : CmdOp) : (s.beginCommand op).readLog = s.readLog := rfl
@[simp] theorem beginCommand_resetHeld (op : CmdOp) : (s.beginCommand op).resetHeld = s.resetHeld := rfl
@[simp] theorem beginCommand_status (op : CmdOp) : (s.beginCommand op).status = s.status := rfl
@[simp] theorem beginCommand_inMode (op : CmdOp) : (s.beginCommand op).inMode = s.inMode := rfl
@[simp] theorem beginCommand_inLen (op : CmdOp) : (s.beginCommand op).inLen = s.inLen := rfl
@[simp] theorem beginCommand_regAddr (op : CmdOp) : (s.beginCommand op).regAddr = s.regAddr := rfl
@[simp] theorem beginCommand_regRaw (op : CmdOp) : (s.beginCommand op).regRaw = s.regRaw := rfl
@[simp] theorem beginCommand_slaveAddr (op : CmdOp) : (s.beginCommand op).slaveAddr = none := rfl
@[simp] theorem beginCommand_func (op : CmdOp) : (s.beginCommand op).func = none := rfl
@[simp] theorem beginCommand_exc (op : CmdOp) : (s.beginCommand op).exc = none := rfl
@[simp] theorem beginCommand_frameLen (op : CmdOp) : (s.beginCommand op).frameLen = none := rfl
@[simp] theorem beginCommand_crcCalc (op : CmdOp) : (s.beginCommand op).crcCalc = none := rfl
@[simp] theorem beginCommand_crcRecv (op : CmdOp) : (s.beginCommand op).crcRecv = none := rfl
@[simp] theorem beginCommand_entryCount (op : CmdOp) : (s.beginCommand op).entryCount = none := rfl
@[simp] theorem beginCommand_mem (op : CmdOp) : (s.beginCommand op).mem = s.mem.clear inOutputWindow := rfl
@[simp] theorem beginCommand_engine (op : CmdOp) : (s.beginCommand op).engine = some (.start op) := rfl

/-! ### `endOk` -/

@[simp] theorem endOk_params : s.endOk.params = s.params := rfl
@[simp] theorem endOk_pending : s.endOk.pending = s.pending := rfl
@[simp] theorem endOk_readLog : s.endOk.readLog = s.readLog := rfl
@[simp] theorem endOk_resetHeld : s.endOk.resetHeld = s.resetHeld := rfl
@[simp] theorem endOk_status : s.endOk.status = .ok := rfl
@[simp] theorem endOk_inMode : s.endOk.inMode = s.inMode := rfl
@[simp] theorem endOk_inLen : s.endOk.inLen = s.inLen := rfl
@[simp] theorem endOk_regAddr : s.endOk.regAddr = s.regAddr := rfl
@[simp] theorem endOk_regRaw : s.endOk.regRaw = s.regRaw := rfl
@[simp] theorem endOk_slaveAddr : s.endOk.slaveAddr = s.slaveAddr := rfl
@[simp] theorem endOk_func : s.endOk.func = s.func := rfl
@[simp] theorem endOk_exc : s.endOk.exc = s.exc := rfl
@[simp] theorem endOk_frameLen : s.endOk.frameLen = s.frameLen := rfl
@[simp] theorem endOk_crcCalc : s.endOk.crcCalc = s.crcCalc := rfl
@[simp] theorem endOk_crcRecv : s.endOk.crcRecv = s.crcRecv := rfl
@[simp] theorem endOk_entryCount : s.endOk.entryCount = s.entryCount := rfl
@[simp] theorem endOk_mem : s.endOk.mem = s.mem := rfl
@[simp] theorem endOk_engine : s.endOk.engine = none := rfl

/-! ### `setEngine` -/

@[simp] theorem setEngine_params (w : Working) : (s.setEngine w).params = s.params := rfl
@[simp] theorem setEngine_pending (w : Working) : (s.setEngine w).pending = s.pending := rfl
@[simp] theorem setEngine_readLog (w : Working) : (s.setEngine w).readLog = s.readLog := rfl
@[simp] theorem setEngine_resetHeld (w : Working) : (s.setEngine w).resetHeld = s.resetHeld := rfl
@[simp] theorem setEngine_status (w : Working) : (s.setEngine w).status = s.status := rfl
@[simp] theorem setEngine_inMode (w : Working) : (s.setEngine w).inMode = s.inMode := rfl
@[simp] theorem setEngine_inLen (w : Working) : (s.setEngine w).inLen = s.inLen := rfl
@[simp] theorem setEngine_regAddr (w : Working) : (s.setEngine w).regAddr = s.regAddr := rfl
@[simp] theorem setEngine_regRaw (w : Working) : (s.setEngine w).regRaw = s.regRaw := rfl
@[simp] theorem setEngine_slaveAddr (w : Working) : (s.setEngine w).slaveAddr = s.slaveAddr := rfl
@[simp] theorem setEngine_func (w : Working) : (s.setEngine w).func = s.func := rfl
@[simp] theorem setEngine_exc (w : Working) : (s.setEngine w).exc = s.exc := rfl
@[simp] theorem setEngine_frameLen (w : Working) : (s.setEngine w).frameLen = s.frameLen := rfl
@[simp] theorem setEngine_crcCalc (w : Working) : (s.setEngine w).crcCalc = s.crcCalc := rfl
@[simp] theorem setEngine_crcRecv (w : Working) : (s.setEngine w).crcRecv = s.crcRecv := rfl
@[simp] theorem setEngine_entryCount (w : Working) : (s.setEngine w).entryCount = s.entryCount := rfl
@[simp] theorem setEngine_mem (w : Working) : (s.setEngine w).mem = s.mem := rfl
@[simp] theorem setEngine_engine (w : Working) : (s.setEngine w).engine = some w := rfl

/-! ### `pushEntry` -/

@[simp] theorem pushEntry_params (w : Working) (e : Entry) : (s.pushEntry w e).params = s.params := rfl
@[simp] theorem pushEntry_pending (w : Working) (e : Entry) : (s.pushEntry w e).pending = s.pending := rfl
@[simp] theorem pushEntry_readLog (w : Working) (e : Entry) : (s.pushEntry w e).readLog = s.readLog := rfl
@[simp] theorem pushEntry_resetHeld (w : Working) (e : Entry) : (s.pushEntry w e).resetHeld = s.resetHeld := rfl
@[simp] theorem pushEntry_status (w : Working) (e : Entry) : (s.pushEntry w e).status = s.status := rfl
@[simp] theorem pushEntry_inMode (w : Working) (e : Entry) : (s.pushEntry w e).inMode = s.inMode := rfl
@[simp] theorem pushEntry_inLen (w : Working) (e : Entry) : (s.pushEntry w e).inLen = s.inLen := rfl
@[simp] theorem pushEntry_regAddr (w : Working) (e : Entry) : (s.pushEntry w e).regAddr = s.regAddr := rfl
@[simp] theorem pushEntry_regRaw (w : Working) (e : Entry) : (s.pushEntry w e).regRaw = s.regRaw := rfl
@[simp] theorem pushEntry_slaveAddr (w : Working) (e : Entry) : (s.pushEntry w e).slaveAddr = s.slaveAddr := rfl
@[simp] theorem pushEntry_func (w : Working) (e : Entry) : (s.pushEntry w e).func = s.func := rfl
@[simp] theorem pushEntry_exc (w : Working) (e : Entry) : (s.pushEntry w e).exc = s.exc := rfl
@[simp] theorem pushEntry_frameLen (w : Working) (e : Entry) : (s.pushEntry w e).frameLen = s.frameLen := rfl
@[simp] theorem pushEntry_crcCalc (w : Working) (e : Entry) : (s.pushEntry w e).crcCalc = s.crcCalc := rfl
@[simp] theorem pushEntry_crcRecv (w : Working) (e : Entry) : (s.pushEntry w e).crcRecv = s.crcRecv := rfl
@[simp] theorem pushEntry_entryCount (w : Working) (e : Entry) : (s.pushEntry w e).entryCount = s.entryCount := rfl
@[simp] theorem pushEntry_mem (w : Working) (e : Entry) : (s.pushEntry w e).mem = s.mem := rfl
@[simp] theorem pushEntry_engine (w : Working) (e : Entry) : (s.pushEntry w e).engine = some { w with entries := w.entries ++ [e] } :=
  rfl

/-! ### `setFrame` -/

@[simp] theorem setFrame_params (w : Working) (f : List Byte) : (s.setFrame w f).params = s.params := rfl
@[simp] theorem setFrame_pending (w : Working) (f : List Byte) : (s.setFrame w f).pending = s.pending := rfl
@[simp] theorem setFrame_readLog (w : Working) (f : List Byte) : (s.setFrame w f).readLog = s.readLog := rfl
@[simp] theorem setFrame_resetHeld (w : Working) (f : List Byte) : (s.setFrame w f).resetHeld = s.resetHeld := rfl
@[simp] theorem setFrame_status (w : Working) (f : List Byte) : (s.setFrame w f).status = s.status := rfl
@[simp] theorem setFrame_inMode (w : Working) (f : List Byte) : (s.setFrame w f).inMode = s.inMode := rfl
@[simp] theorem setFrame_inLen (w : Working) (f : List Byte) : (s.setFrame w f).inLen = s.inLen := rfl
@[simp] theorem setFrame_regAddr (w : Working) (f : List Byte) : (s.setFrame w f).regAddr = s.regAddr := rfl
@[simp] theorem setFrame_regRaw (w : Working) (f : List Byte) : (s.setFrame w f).regRaw = s.regRaw := rfl
@[simp] theorem setFrame_slaveAddr (w : Working) (f : List Byte) : (s.setFrame w f).slaveAddr = s.slaveAddr := rfl
@[simp] theorem setFrame_func (w : Working) (f : List Byte) : (s.setFrame w f).func = s.func := rfl
@[simp] theorem setFrame_exc (w : Working) (f : List Byte) : (s.setFrame w f).exc = s.exc := rfl
@[simp] theorem setFrame_frameLen (w : Working) (f : List Byte) : (s.setFrame w f).frameLen = s.frameLen := rfl
@[simp] theorem setFrame_crcCalc (w : Working) (f : List Byte) : (s.setFrame w f).crcCalc = s.crcCalc := rfl
@[simp] theorem setFrame_crcRecv (w : Working) (f : List Byte) : (s.setFrame w f).crcRecv = s.crcRecv := rfl
@[simp] theorem setFrame_entryCount (w : Working) (f : List Byte) : (s.setFrame w f).entryCount = s.entryCount := rfl
@[simp] theorem setFrame_mem (w : Working) (f : List Byte) : (s.setFrame w f).mem = s.mem := rfl
@[simp] theorem setFrame_engine (w : Working) (f : List Byte) : (s.setFrame w f).engine = some { w with frame := f } :=
  rfl

/-! ### `publishFrame` -/

@[simp] theorem publishFrame_params (f : List Byte) : (s.publishFrame f).params = s.params := rfl
@[simp] theorem publishFrame_pending (f : List Byte) : (s.publishFrame f).pending = s.pending := rfl
@[simp] theorem publishFrame_readLog (f : List Byte) : (s.publishFrame f).readLog = s.readLog := rfl
@[simp] theorem publishFrame_resetHeld (f : List Byte) : (s.publishFrame f).resetHeld = s.resetHeld := rfl
@[simp] theorem publishFrame_status (f : List Byte) : (s.publishFrame f).status = s.status := rfl
@[simp] theorem publishFrame_inMode (f : List Byte) : (s.publishFrame f).inMode = s.inMode := rfl
@[simp] theorem publishFrame_inLen (f : List Byte) : (s.publishFrame f).inLen = s.inLen := rfl
@[simp] theorem publishFrame_regAddr (f : List Byte) : (s.publishFrame f).regAddr = s.regAddr := rfl
@[simp] theorem publishFrame_regRaw (f : List Byte) : (s.publishFrame f).regRaw = s.regRaw := rfl
@[simp] theorem publishFrame_slaveAddr (f : List Byte) : (s.publishFrame f).slaveAddr = s.slaveAddr := rfl
@[simp] theorem publishFrame_func (f : List Byte) : (s.publishFrame f).func = s.func := rfl
@[simp] theorem publishFrame_exc (f : List Byte) : (s.publishFrame f).exc = s.exc := rfl
@[simp] theorem publishFrame_frameLen (f : List Byte) : (s.publishFrame f).frameLen = some (lenWord f) := rfl
@[simp] theorem publishFrame_crcCalc (f : List Byte) : (s.publishFrame f).crcCalc = s.crcCalc := rfl
@[simp] theorem publishFrame_crcRecv (f : List Byte) : (s.publishFrame f).crcRecv = s.crcRecv := rfl
@[simp] theorem publishFrame_entryCount (f : List Byte) : (s.publishFrame f).entryCount = s.entryCount := rfl
@[simp] theorem publishFrame_mem (f : List Byte) : (s.publishFrame f).mem = s.mem.writeWords (frameBufOffset 0) (frameWords f) :=
  rfl
@[simp] theorem publishFrame_engine (f : List Byte) : (s.publishFrame f).engine = s.engine := rfl

/-! ### `publishEntries` -/

@[simp] theorem publishEntries_params (es : List Entry) : (s.publishEntries es).params = s.params := rfl
@[simp] theorem publishEntries_pending (es : List Entry) : (s.publishEntries es).pending = s.pending := rfl
@[simp] theorem publishEntries_readLog (es : List Entry) : (s.publishEntries es).readLog = s.readLog := rfl
@[simp] theorem publishEntries_resetHeld (es : List Entry) : (s.publishEntries es).resetHeld = s.resetHeld := rfl
@[simp] theorem publishEntries_status (es : List Entry) : (s.publishEntries es).status = s.status := rfl
@[simp] theorem publishEntries_inMode (es : List Entry) : (s.publishEntries es).inMode = s.inMode := rfl
@[simp] theorem publishEntries_inLen (es : List Entry) : (s.publishEntries es).inLen = s.inLen := rfl
@[simp] theorem publishEntries_regAddr (es : List Entry) : (s.publishEntries es).regAddr = s.regAddr := rfl
@[simp] theorem publishEntries_regRaw (es : List Entry) : (s.publishEntries es).regRaw = s.regRaw := rfl
@[simp] theorem publishEntries_slaveAddr (es : List Entry) : (s.publishEntries es).slaveAddr = s.slaveAddr := rfl
@[simp] theorem publishEntries_func (es : List Entry) : (s.publishEntries es).func = s.func := rfl
@[simp] theorem publishEntries_exc (es : List Entry) : (s.publishEntries es).exc = s.exc := rfl
@[simp] theorem publishEntries_frameLen (es : List Entry) : (s.publishEntries es).frameLen = s.frameLen := rfl
@[simp] theorem publishEntries_crcCalc (es : List Entry) : (s.publishEntries es).crcCalc = s.crcCalc := rfl
@[simp] theorem publishEntries_crcRecv (es : List Entry) : (s.publishEntries es).crcRecv = s.crcRecv := rfl
@[simp] theorem publishEntries_entryCount (es : List Entry) : (s.publishEntries es).entryCount = some (countWord es) :=
  rfl
@[simp] theorem publishEntries_mem (es : List Entry) : (s.publishEntries es).mem = s.mem.writeWords (entryOffset 0 0) (entryWords es) :=
  rfl
@[simp] theorem publishEntries_engine (es : List Entry) : (s.publishEntries es).engine = s.engine := rfl

/-! ### `publishHeader` -/

@[simp] theorem publishHeader_params (slave fc : Byte) (e : ExcInfo) : (s.publishHeader slave fc e).params = s.params :=
  rfl
@[simp] theorem publishHeader_pending (slave fc : Byte) (e : ExcInfo) : (s.publishHeader slave fc e).pending = s.pending :=
  rfl
@[simp] theorem publishHeader_readLog (slave fc : Byte) (e : ExcInfo) : (s.publishHeader slave fc e).readLog = s.readLog :=
  rfl
@[simp] theorem publishHeader_resetHeld (slave fc : Byte) (e : ExcInfo) : (s.publishHeader slave fc e).resetHeld = s.resetHeld :=
  rfl
@[simp] theorem publishHeader_status (slave fc : Byte) (e : ExcInfo) : (s.publishHeader slave fc e).status = s.status :=
  rfl
@[simp] theorem publishHeader_inMode (slave fc : Byte) (e : ExcInfo) : (s.publishHeader slave fc e).inMode = s.inMode :=
  rfl
@[simp] theorem publishHeader_inLen (slave fc : Byte) (e : ExcInfo) : (s.publishHeader slave fc e).inLen = s.inLen :=
  rfl
@[simp] theorem publishHeader_regAddr (slave fc : Byte) (e : ExcInfo) : (s.publishHeader slave fc e).regAddr = s.regAddr :=
  rfl
@[simp] theorem publishHeader_regRaw (slave fc : Byte) (e : ExcInfo) : (s.publishHeader slave fc e).regRaw = s.regRaw :=
  rfl
@[simp] theorem publishHeader_slaveAddr (slave fc : Byte) (e : ExcInfo) : (s.publishHeader slave fc e).slaveAddr = some (slaveWord slave) :=
  rfl
@[simp] theorem publishHeader_func (slave fc : Byte) (e : ExcInfo) : (s.publishHeader slave fc e).func = some (funcWord fc) :=
  rfl
@[simp] theorem publishHeader_exc (slave fc : Byte) (e : ExcInfo) : (s.publishHeader slave fc e).exc = some (excWord e) :=
  rfl
@[simp] theorem publishHeader_frameLen (slave fc : Byte) (e : ExcInfo) : (s.publishHeader slave fc e).frameLen = s.frameLen :=
  rfl
@[simp] theorem publishHeader_crcCalc (slave fc : Byte) (e : ExcInfo) : (s.publishHeader slave fc e).crcCalc = s.crcCalc :=
  rfl
@[simp] theorem publishHeader_crcRecv (slave fc : Byte) (e : ExcInfo) : (s.publishHeader slave fc e).crcRecv = s.crcRecv :=
  rfl
@[simp] theorem publishHeader_entryCount (slave fc : Byte) (e : ExcInfo) : (s.publishHeader slave fc e).entryCount = s.entryCount :=
  rfl
@[simp] theorem publishHeader_mem (slave fc : Byte) (e : ExcInfo) : (s.publishHeader slave fc e).mem = s.mem := rfl
@[simp] theorem publishHeader_engine (slave fc : Byte) (e : ExcInfo) : (s.publishHeader slave fc e).engine = s.engine :=
  rfl

/-! ### `releaseReset` -/

@[simp] theorem releaseReset_params : s.releaseReset.params = s.params := rfl
@[simp] theorem releaseReset_pending : s.releaseReset.pending = s.pending := rfl
@[simp] theorem releaseReset_readLog : s.releaseReset.readLog = s.readLog := rfl
@[simp] theorem releaseReset_resetHeld : s.releaseReset.resetHeld = false := rfl
@[simp] theorem releaseReset_status : s.releaseReset.status = .idle := rfl
@[simp] theorem releaseReset_inMode : s.releaseReset.inMode = none := rfl
@[simp] theorem releaseReset_inLen : s.releaseReset.inLen = none := rfl
@[simp] theorem releaseReset_regAddr : s.releaseReset.regAddr = none := rfl
@[simp] theorem releaseReset_regRaw : s.releaseReset.regRaw = none := rfl
@[simp] theorem releaseReset_slaveAddr : s.releaseReset.slaveAddr = none := rfl
@[simp] theorem releaseReset_func : s.releaseReset.func = none := rfl
@[simp] theorem releaseReset_exc : s.releaseReset.exc = none := rfl
@[simp] theorem releaseReset_frameLen : s.releaseReset.frameLen = none := rfl
@[simp] theorem releaseReset_crcCalc : s.releaseReset.crcCalc = none := rfl
@[simp] theorem releaseReset_crcRecv : s.releaseReset.crcRecv = none := rfl
@[simp] theorem releaseReset_entryCount : s.releaseReset.entryCount = none := rfl
@[simp] theorem releaseReset_mem : s.releaseReset.mem = .empty := rfl
@[simp] theorem releaseReset_engine : s.releaseReset.engine = none := rfl

/-! ### `dropAccess` -/

@[simp] theorem dropAccess_params : s.dropAccess.params = s.params := rfl
@[simp] theorem dropAccess_pending : s.dropAccess.pending = s.pending.tail := rfl
@[simp] theorem dropAccess_readLog : s.dropAccess.readLog = s.readLog := rfl
@[simp] theorem dropAccess_resetHeld : s.dropAccess.resetHeld = s.resetHeld := rfl
@[simp] theorem dropAccess_status : s.dropAccess.status = s.status := rfl
@[simp] theorem dropAccess_inMode : s.dropAccess.inMode = s.inMode := rfl
@[simp] theorem dropAccess_inLen : s.dropAccess.inLen = s.inLen := rfl
@[simp] theorem dropAccess_regAddr : s.dropAccess.regAddr = s.regAddr := rfl
@[simp] theorem dropAccess_regRaw : s.dropAccess.regRaw = s.regRaw := rfl
@[simp] theorem dropAccess_slaveAddr : s.dropAccess.slaveAddr = s.slaveAddr := rfl
@[simp] theorem dropAccess_func : s.dropAccess.func = s.func := rfl
@[simp] theorem dropAccess_exc : s.dropAccess.exc = s.exc := rfl
@[simp] theorem dropAccess_frameLen : s.dropAccess.frameLen = s.frameLen := rfl
@[simp] theorem dropAccess_crcCalc : s.dropAccess.crcCalc = s.crcCalc := rfl
@[simp] theorem dropAccess_crcRecv : s.dropAccess.crcRecv = s.crcRecv := rfl
@[simp] theorem dropAccess_entryCount : s.dropAccess.entryCount = s.entryCount := rfl
@[simp] theorem dropAccess_mem : s.dropAccess.mem = s.mem := rfl
@[simp] theorem dropAccess_engine : s.dropAccess.engine = s.engine := rfl

/-! ### `withCmdWrite` -/

@[simp] theorem withCmdWrite_params (v : Word) : (s.withCmdWrite v).params = s.params := rfl
@[simp] theorem withCmdWrite_pending (v : Word) : (s.withCmdWrite v).pending = .access (.write 0x000 32 v) :: s.pending :=
  rfl
@[simp] theorem withCmdWrite_readLog (v : Word) : (s.withCmdWrite v).readLog = s.readLog := rfl
@[simp] theorem withCmdWrite_resetHeld (v : Word) : (s.withCmdWrite v).resetHeld = false := rfl
@[simp] theorem withCmdWrite_status (v : Word) : (s.withCmdWrite v).status = s.status := rfl
@[simp] theorem withCmdWrite_inMode (v : Word) : (s.withCmdWrite v).inMode = s.inMode := rfl
@[simp] theorem withCmdWrite_inLen (v : Word) : (s.withCmdWrite v).inLen = s.inLen := rfl
@[simp] theorem withCmdWrite_regAddr (v : Word) : (s.withCmdWrite v).regAddr = s.regAddr := rfl
@[simp] theorem withCmdWrite_regRaw (v : Word) : (s.withCmdWrite v).regRaw = s.regRaw := rfl
@[simp] theorem withCmdWrite_slaveAddr (v : Word) : (s.withCmdWrite v).slaveAddr = s.slaveAddr := rfl
@[simp] theorem withCmdWrite_func (v : Word) : (s.withCmdWrite v).func = s.func := rfl
@[simp] theorem withCmdWrite_exc (v : Word) : (s.withCmdWrite v).exc = s.exc := rfl
@[simp] theorem withCmdWrite_frameLen (v : Word) : (s.withCmdWrite v).frameLen = s.frameLen := rfl
@[simp] theorem withCmdWrite_crcCalc (v : Word) : (s.withCmdWrite v).crcCalc = s.crcCalc := rfl
@[simp] theorem withCmdWrite_crcRecv (v : Word) : (s.withCmdWrite v).crcRecv = s.crcRecv := rfl
@[simp] theorem withCmdWrite_entryCount (v : Word) : (s.withCmdWrite v).entryCount = s.entryCount := rfl
@[simp] theorem withCmdWrite_mem (v : Word) : (s.withCmdWrite v).mem = s.mem := rfl
@[simp] theorem withCmdWrite_engine (v : Word) : (s.withCmdWrite v).engine = s.engine := rfl

/-! ### `failWith` (R135) -/

@[simp] theorem failWith_params (op : CmdOp) (c : StatusCode) : (s.failWith op c).params = s.params := by
  cases op <;> rfl
@[simp] theorem failWith_pending (op : CmdOp) (c : StatusCode) : (s.failWith op c).pending = s.pending := by
  cases op <;> rfl
@[simp] theorem failWith_readLog (op : CmdOp) (c : StatusCode) : (s.failWith op c).readLog = s.readLog := by
  cases op <;> rfl
@[simp] theorem failWith_resetHeld (op : CmdOp) (c : StatusCode) : (s.failWith op c).resetHeld = s.resetHeld := by
  cases op <;> rfl
@[simp] theorem failWith_status (op : CmdOp) (c : StatusCode) : (s.failWith op c).status = c := by
  cases op <;> rfl
@[simp] theorem failWith_inMode (op : CmdOp) (c : StatusCode) : (s.failWith op c).inMode = s.inMode := by
  cases op <;> rfl
@[simp] theorem failWith_inLen (op : CmdOp) (c : StatusCode) : (s.failWith op c).inLen = s.inLen := by
  cases op <;> rfl
@[simp] theorem failWith_regAddr (op : CmdOp) (c : StatusCode) : (s.failWith op c).regAddr = s.regAddr := by
  cases op <;> rfl
@[simp] theorem failWith_regRaw (op : CmdOp) (c : StatusCode) : (s.failWith op c).regRaw = s.regRaw := by
  cases op <;> rfl
@[simp] theorem failWith_slaveAddr (op : CmdOp) (c : StatusCode) : (s.failWith op c).slaveAddr = none := by
  cases op <;> rfl
@[simp] theorem failWith_func (op : CmdOp) (c : StatusCode) : (s.failWith op c).func = none := by
  cases op <;> rfl
@[simp] theorem failWith_exc (op : CmdOp) (c : StatusCode) : (s.failWith op c).exc = none := by
  cases op <;> rfl
@[simp] theorem failWith_entryCount (op : CmdOp) (c : StatusCode) : (s.failWith op c).entryCount = none := by
  cases op <;> rfl
@[simp] theorem failWith_engine (op : CmdOp) (c : StatusCode) : (s.failWith op c).engine = none := by
  cases op <;> rfl

/-- CRC_CHECK keeps FRAME_LEN, FRAME_BUF, CRC_CALC and CRC_RECV (R135). -/
theorem failWith_crcCheck (c : StatusCode) : s.failWith .crcCheck c =
    { s with slaveAddr := none, func := none, exc := none, entryCount := none,
             mem := s.mem.clear inEntryWindow, status := c, engine := none } := rfl

/-- Every other command keeps nothing (R135). -/
theorem failWith_of_ne (op : CmdOp) (c : StatusCode) (h : op ≠ .crcCheck) :
    s.failWith op c = { s.clearOutputs with status := c, engine := none } := by
  cases op <;> first | rfl | exact absurd rfl h

end Sys2Proof.Machine
end

