-- ==== Sys2Proof/Laws/Ops.lean ====
section
/-! SUPPORT. One lemma per shared operation that says everything it can do; later proofs cite it instead of unfolding
the operation. -/

namespace Sys2Proof.Machine

/-! ### Stages of a running command -/

theorem withRunning_some {s : State} {w : Working} (k : Working → Result) (h : s.engine = some w) :
    withRunning s k = k w := by simp [withRunning, h]

theorem withRunning_none {s : State} (k : Working → Result) (h : s.engine = none) :
    withRunning s k = .refused .outsideCommand := by simp [withRunning, h]

/-- A stage that answers a next state ran in a running command. -/
theorem withRunning_next {s t : State} {k : Working → Result} (h : withRunning s k = .next t) :
    ∃ w, s.engine = some w ∧ k w = .next t := by
  unfold withRunning at h
  split at h
  · exact ⟨_, ‹_›, h⟩
  · cases h

/-- `fail c` inside a running command (R135). -/
theorem failCommand_running {s : State} {w : Working} (c : StatusCode) (h : s.engine = some w) :
    failCommand c s = .next (s.failWith w.op c) := withRunning_some _ h

/-- All that `fail c` can answer: the command ended with STATUS.CODE = c (R135). -/
theorem failCommand_next {s t : State} {c : StatusCode} (h : failCommand c s = .next t) :
    ∃ w, s.engine = some w ∧ t = s.failWith w.op c := by
  obtain ⟨w, hw, hk⟩ := withRunning_next h
  exact ⟨w, hw, by cases hk; rfl⟩

@[simp] theorem andThen_running {s : State} {w : Working} (k : State → Result) (h : s.engine = some w) :
    Result.andThen (.next s) k = k s := by simp [Result.andThen, h]

@[simp] theorem andThen_ended {s : State} (k : State → Result) (h : s.engine = none) :
    Result.andThen (.next s) k = .next s := by simp [Result.andThen, h]

@[simp] theorem andThen_fault (f : Fault) (k : State → Result) :
    Result.andThen (.fault f) k = .fault f := rfl

@[simp] theorem andThen_refused (x : Refusal) (k : State → Result) :
    Result.andThen (.refused x) k = .refused x := rfl

/-- All that a sequence of two stages can answer: the first ended the command, or the second went on from it. -/
theorem andThen_next {r : Result} {k : State → Result} {t : State} (h : r.andThen k = .next t) :
    (r = .next t ∧ t.engine = none) ∨ ∃ s w, r = .next s ∧ s.engine = some w ∧ k s = .next t := by
  cases r with
  | next s =>
    cases hs : s.engine with
    | none => rw [andThen_ended k hs] at h; cases h; exact .inl ⟨rfl, hs⟩
    | some w => rw [andThen_running k hs] at h; exact .inr ⟨s, w, rfl, hs, h⟩
  | fault f => cases h
  | refused x => cases h

@[simp] theorem withOperand_some {α : Type} (s : State) (v : α) (k : α → Result) :
    withOperand s (some v) k = k v := rfl

@[simp] theorem withOperand_none {α : Type} (s : State) (k : α → Result) :
    withOperand s none k = failCommand .payloadOverrun s := rfl

/-- All that a frame read can answer: the operand's continuation, or the overrun failure (R46). -/
theorem withOperand_next {α : Type} {s t : State} {x : Option α} {k : α → Result}
    (h : withOperand s x k = .next t) :
    (∃ v, x = some v ∧ k v = .next t) ∨ (x = none ∧ failCommand .payloadOverrun s = .next t) := by
  cases x with
  | some v => exact .inl ⟨v, rfl, h⟩
  | none => exact .inr ⟨rfl, h⟩

/-! ### Frame reads -/

/-- A byte inside the frame. -/
theorem frameByte_of_lt {f : List Byte} {o : Nat} (h : o < f.length) : frameByte f o = some (f.getD o 0) := by
  simp [frameByte, List.getD_eq_getElem?_getD, List.getElem?_eq_getElem h]

theorem frameByte_of_ge {f : List Byte} {o : Nat} (h : f.length ≤ o) : frameByte f o = none := by
  simp [frameByte, h]

/-- A 16-bit value inside the frame (R46). -/
theorem frameBE16_of_lt {f : List Byte} {o : Nat} (h : o + 1 < f.length) :
    frameBE16 f o = some (valueAt f o) := by
  simp [frameBE16, frameByte_of_lt h, frameByte_of_lt (show o < f.length by omega), valueAt]

/-- A 16-bit read that leaves the frame (R46). -/
theorem frameBE16_of_ge {f : List Byte} {o : Nat} (h : f.length ≤ o + 1) : frameBE16 f o = none := by
  unfold frameBE16
  rw [frameByte_of_ge h]
  cases frameByte f o <;> rfl

theorem frameCrcLE_eq {f : List Byte} (h : 2 ≤ f.length) : frameCrcLE f = some (receivedCrc f) := by
  simp [frameCrcLE, frameByte_of_lt (show f.length - 1 < f.length by omega),
    frameByte_of_lt (show f.length - 2 < f.length by omega), receivedCrc]

/-! ### Input slots -/

/-- The slots read are those of IN_BUF, in order. -/
theorem inputSlots_eq_some {m : Memory} {k : Nat} {vs : List Word}
    (h : ∀ i v, vs[i]? = some v → m.read (inBufOffset (k + i)) = some v) :
    inputSlots m k vs.length = some vs := by
  induction vs generalizing k with
  | nil => rfl
  | cons v rest ih =>
    have h0 : m.read (inBufOffset k) = some v := by simpa using h 0 v rfl
    have hr : inputSlots m (k + 1) rest.length = some rest :=
      ih fun i u hu => by simpa [Nat.add_assoc, Nat.add_comm 1 i] using h (i + 1) u (by simpa using hu)
    simp [inputSlots, h0, hr]

/-- Slots that were read all hold values (R79). -/
theorem inputSlots_some {m : Memory} {k n : Nat} {vs : List Word} (h : inputSlots m k n = some vs) :
    vs.length = n ∧ ∀ i v, vs[i]? = some v → m.read (inBufOffset (k + i)) = some v := by
  induction n generalizing k vs with
  | zero => cases h; simp
  | succ n ih =>
    simp only [inputSlots] at h
    split at h
    · rename_i v rest hv hrest
      cases h
      obtain ⟨hl, hg⟩ := ih hrest
      refine ⟨by simp [hl], fun i u hu => ?_⟩
      cases i with
      | zero => simpa [hv] using hu
      | succ i =>
        have := hg i u (by simpa using hu)
        simpa [Nat.add_assoc, Nat.add_comm 1 i] using this
    · cases h

/-- All that the checks of R79 before the input decoders can answer. -/
theorem withInputSlots_next {s t : State} {k : List Word → Result} (h : withInputSlots s k = .next t) :
    ∃ n vs, s.inLen = some n ∧ n.toNat ≤ s.params.inDepth ∧ inputSlots s.mem 0 n.toNat = some vs ∧
      k vs = .next t := by
  unfold withInputSlots at h
  split at h
  · cases h
  · rename_i n hn
    split at h
    · cases h
    · split at h
      · cases h
      · exact ⟨n, _, hn, by omega, ‹_›, h⟩

/-! ### The checker -/

/-- CrcVerify on a frame of at least two bytes (R93). -/
theorem crcVerify_running {s : State} {w : Working} (h : s.engine = some w) (hl : 2 ≤ w.frame.length) :
    crcVerify s =
      let t := { s with crcCalc := some (zext32 (crcCalc w.frame)), crcRecv := some (zext32 (receivedCrc w.frame)),
                        engine := some { w with acc := crcCalc w.frame } }
      if crcCalc w.frame = receivedCrc w.frame then .next t else .next (t.failWith w.op .checksum) := by
  rw [crcVerify, withRunning_some _ h, if_neg (by omega), frameCrcLE_eq hl, withOperand_some]
  simp only
  split
  · rfl
  · exact failCommand_running (w := { w with acc := crcCalc w.frame }) _ rfl

/-- CrcVerify on a frame of fewer than two bytes (R93). -/
theorem crcVerify_short {s : State} {w : Working} (h : s.engine = some w) (hl : w.frame.length < 2) :
    crcVerify s = .next (s.failWith w.op .checksum) := by
  rw [crcVerify, withRunning_some _ h, if_pos hl, failCommand_running _ h]

/-! ### The value decoder -/

/-- RegDecode appends the entry R119 gives (R119, R132). -/
theorem runRegDecode_running {s : State} {w : Working} (a raw : Half) (write : Bool) (h : s.engine = some w) :
    runRegDecode a raw write s =
      .next (s.setEngine { w with raw, write,
                                  entries := w.entries ++ [regDecodeEntry s.params.regTable a raw write] }) := by
  rw [runRegDecode, withRunning_some _ h]
  unfold runVariant regDecodeEntry
  rw [setEngine_params]
  cases hl : lookup s.params.regTable a with
  | none =>
    simp only
    rw [execUnknown, withRunning_some _ (by rfl), setEngine_params, hl]
    rfl
  | some p =>
    obtain ⟨j, d⟩ := p
    have key : ∀ (f : Entry → Descriptor → Entry),
        appendKnown (s.setEngine { w with raw, write }) a f =
          .next (s.setEngine { w with raw, write, entries := w.entries ++ [f (baseEntry j d a raw write) d] }) := by
      intro f
      rw [appendKnown, withRunning_some _ (by rfl), setEngine_params, hl]
      rfl
    have hb : (baseEntry j d a raw write).address = a := rfl
    simp only [knownEntry, hb]
    by_cases h1 : a = 0x0006
    · subst h1; exact key fun b _ => errorCodeEntry b
    by_cases h2 : a = 0x0007
    · subst h2; exact key fun b _ => statusFlagsEntry b
    by_cases h3 : a = 0x0014
    · subst h3; exact key fun b _ => carrierEntry b
    by_cases h4 : a = 0x0019
    · subst h4; exact key fun b _ => measRangeEntry b
    by_cases h5 : a = 0x1001
    · subst h5; exact key fun b _ => statusCmdEntry b
    simp only [if_neg h1, if_neg h2, if_neg h3, if_neg h4, if_neg h5]
    exact key genericEntry

/-! ### The step -/

/-- All that a step can do: idle, or take the next event (R54). -/
theorem step_next {s t : State} (h : step s = .next t) :
    (s.pending = [] ∧ t = s) ∨
    ∃ e rest, s.pending = e :: rest ∧ hostEvent exec e { s with pending := rest } = .next t := by
  unfold step takeEvent at h
  split at h
  · rename_i hp; cases h; exact .inl ⟨hp, rfl⟩
  · rename_i e rest hp; exact .inr ⟨e, rest, hp, h⟩

/-- All that an event can do to the block (R151). -/
theorem hostEvent_next {run : Instr → State → Result} {e : HostEvent} {s t : State}
    (h : hostEvent run e s = .next t) :
    (e = .assertReset ∧ t = { s with resetHeld := true }) ∨
    (e = .releaseReset ∧ t = if s.resetHeld then s.releaseReset else s) ∨
    ∃ a, e = .access a ∧ s.resetHeld = false ∧ busAccess run a s = .next t := by
  cases e with
  | access a =>
    simp only [hostEvent] at h
    split at h
    · cases h
    · rename_i hr; exact .inr (.inr ⟨a, rfl, by simpa using hr, h⟩)
  | assertReset => cases h; exact .inl ⟨rfl, rfl⟩
  | releaseReset => cases h; exact .inr (.inl ⟨rfl, rfl⟩)

/-- All that a host read can do: the word goes to the host (R50, R139). -/
theorem busRead_next {o : BitVec 16} {width : Nat} {s t : State} (h : busRead o width s = .next t) :
    badBusAccess o width = false ∧
    ∃ v, readReg s (regAt s.params.inDepth o.toNat) = some v ∧ t = { s with readLog := v :: s.readLog } := by
  unfold busRead at h
  split at h
  · cases h
  · rename_i hb
    refine ⟨by simpa using hb, ?_⟩
    simp only at h
    split at h
    · cases h
    · cases h
    all_goals
      split at h
      · cases h
      · rename_i v hv; cases h; exact ⟨v, hv, rfl⟩

/-- All that a host write can do: run a command, or store in an input register (R50, R139). -/
theorem busWrite_next {run : Instr → State → Result} {o : BitVec 16} {width : Nat} {v : Word} {s t : State}
    (h : busWrite run o width v s = .next t) :
    badBusAccess o width = false ∧
    ((accessOf (regAt s.params.inDepth o.toNat) = .writeOnly ∧ run (decode s.params.regTable (.cmd v)) s = .next t) ∨
     (accessOf (regAt s.params.inDepth o.toNat) = .readWrite ∧
      t = storeReg s (regAt s.params.inDepth o.toNat) v)) := by
  unfold busWrite at h
  split at h
  · cases h
  · rename_i hb
    refine ⟨by simpa using hb, ?_⟩
    simp only at h
    split at h
    · cases h
    · cases h
    · exact .inl ⟨‹_›, h⟩
    · rename_i ha; cases h; exact .inr ⟨ha, rfl⟩

end Sys2Proof.Machine
end

