-- ==== Sys2Proof/Laws/Ingress.lean ====
section
/-! SUPPORT. The laws of the ingress stage's shared operations: the slots a command reads, the digits of HEX mode and
their pairing. -/

namespace Sys2Proof.Machine

/-! ### The slots -/

/-- Where the input holds the elements `vs`, the checks of R79 pass and the decoder gets them. -/
theorem withInputSlots_holds {s : State} {vs : List Word} (k : List Word → Result) (h : SlotsHold s vs) :
    withInputSlots s k = k vs := by
  obtain ⟨h1, h2, h3, h4⟩ := h
  have h3' : s.params.inDepth ≤ 1024 := h3
  have hn : (BitVec.ofNat 16 vs.length).toNat = vs.length := by simp; omega
  unfold withInputSlots
  rw [h1]
  simp only [hn]
  rw [if_neg (by omega), inputSlots_eq_some (by simpa using h4)]

/-- Starting a command clears no input slot (R98, R154). -/
theorem slotsHold_beginCommand {s : State} {vs : List Word} (op : CmdOp) (h : SlotsHold s vs) :
    SlotsHold (s.beginCommand op) vs := by
  obtain ⟨h1, h2, h3, h4⟩ := h
  have h3' : s.params.inDepth ≤ 1024 := h3
  refine ⟨by simpa using h1, by simpa using h2, h3, fun k v hk => ?_⟩
  have hk' : k < vs.length := by
    by_contra hc
    simp [List.getElem?_eq_none (by omega : vs.length ≤ k)] at hk
  have hw : inOutputWindow (inBufOffset k) = false := by
    have h1 : ¬ 0x2000 + 4 * k < 0x1800 := by omega
    have h2 : ¬ 0x4000 ≤ 0x2000 + 4 * k := by omega
    simp only [inOutputWindow, inEntryWindow, inFrameWindow, inBufOffset, h1, h2]
    simp
  rw [beginCommand_mem, Memory.read_clear, hw]
  simpa using h4 k v hk

/-- One slot that holds NONE stops the read of the slots (R79). -/
theorem inputSlots_none {m : Memory} {k n i : Nat} (hi : i < n) (h : m.read (inBufOffset (k + i)) = none) :
    inputSlots m k n = none := by
  by_contra hc
  obtain ⟨vs, hv⟩ := Option.ne_none_iff_exists'.1 hc
  obtain ⟨h1, h2⟩ := inputSlots_some hv
  have := h2 i (vs[i]'(by omega)) (by simp)
  simp [h] at this

/-! ### The digits of HEX mode -/

/-- One character that is no hex digit spoils the digits (R83). -/
theorem hexvals_none {cs : List Byte} (h : ∃ c ∈ cs, hexval c = none) : hexvals cs = none := by
  induction cs with
  | nil => simp at h
  | cons c rest ih =>
    simp only [hexvals]
    cases hc : hexval c with
    | none => rfl
    | some x =>
      have hr : ∃ c ∈ rest, hexval c = none := by
        obtain ⟨d, hd, hn⟩ := h
        rcases List.mem_cons.1 hd with rfl | hd
        · simp [hc] at hn
        · exact ⟨d, hd, hn⟩
      rw [ih hr]

/-- Characters that are all hex digits give their values, in order (R82, R83). -/
theorem hexvals_some {cs : List Byte} (h : ∀ c ∈ cs, hexval c ≠ none) :
    ∃ ds : List Byte, hexvals cs = some ds ∧ ds.length = cs.length ∧
      ∀ (i : Nat) (c x : Byte), cs[i]? = some c → hexval c = some x → ds[i]? = some x := by
  induction cs with
  | nil => exact ⟨[], rfl, rfl, by simp⟩
  | cons c rest ih =>
    obtain ⟨ds, h1, h2, h3⟩ := ih (fun d hd => h d (List.mem_cons_of_mem _ hd))
    obtain ⟨x, hx⟩ := Option.ne_none_iff_exists'.1 (h c List.mem_cons_self)
    refine ⟨x :: ds, by simp [hexvals, hx, h1], by simp [h2], fun i e y he hy => ?_⟩
    cases i with
    | zero => simp at he; subst he; simp_all
    | succ i => simp at he ⊢; exact h3 i e y he hy

/-- Pairing halves the length, and each byte is its two digits, the first the high nibble (R83). -/
theorem pairDigits_spec (ds : List Byte) (h : ds.length % 2 = 0) :
    (pairDigits ds).length = ds.length / 2 ∧
    ∀ (m : Nat) (x y : Byte), ds[2 * m]? = some x → ds[2 * m + 1]? = some y →
      (pairDigits ds)[m]? = some ((x <<< 4) ||| y) := by
  induction ds using pairDigits.induct with
  | case1 hi lo rest ih =>
    simp only [List.length_cons] at h
    obtain ⟨i1, i2⟩ := ih (by omega)
    refine ⟨by simp [pairDigits, i1]; omega, fun m x y h1 h2 => ?_⟩
    cases m with
    | zero => simp at h1 h2; subst h1; subst h2; simp [pairDigits]
    | succ m =>
      simp only [pairDigits, List.getElem?_cons_succ]
      apply i2
      · simpa [show 2 * (m + 1) = 2 * m + 1 + 1 by omega] using h1
      · simpa [show 2 * (m + 1) = 2 * m + 1 + 1 by omega] using h2
  | case2 ds hn =>
    rcases ds with _ | ⟨a, _ | ⟨b, r⟩⟩
    · simp [pairDigits]
    · simp at h
    · exact absurd rfl (hn a b r)

/-- The digits are as many as the characters. -/
theorem hexvals_length {cs ds : List Byte} (h : hexvals cs = some ds) : ds.length = cs.length := by
  have hn : ∀ c ∈ cs, hexval c ≠ none := by
    intro c hc hcn
    rw [hexvals_none ⟨c, hc, hcn⟩] at h
    cases h
  obtain ⟨ds', a, b, _⟩ := hexvals_some hn
  rw [h] at a
  cases a
  exact b

/-! ### The stage -/

/-- All that the ingress stage of a running command can answer: the frame is fixed, no longer than P_IN_DEPTH, or the
command ended with one of the four input failures (R79, R87). -/
theorem ingress_next {s t : State} {w : Working} (hw : s.engine = some w) (h : ingress s = .next t) :
    (∃ f, t = s.setFrame w f ∧ f.length ≤ s.params.inDepth) ∨
    ∃ c ∈ [StatusCode.inputUnsupported, .inputOddLength, .inputBadDigit, .inputRange], t = s.failWith w.op c := by
  unfold ingress at h
  split at h
  · cases h
  · rename_i m hm
    have hc : m = 0 ∨ m = 1 ∨ m = 2 ∨ m = 3 := by clear h hm; revert m; decide
    rcases hc with rfl | rfl | rfl | rfl
    · have h : execInBytes s = .next t := h
      rw [execInBytes, withRunning_some _ hw] at h
      obtain ⟨n, vs, h1, h2, h3, h4⟩ := withInputSlots_next h
      cases h4
      exact .inl ⟨_, rfl, by simp [(inputSlots_some h3).1, h2]⟩
    · have h : execInHex s = .next t := h
      rw [execInHex, withRunning_some _ hw] at h
      obtain ⟨n, vs, h1, h2, h3, h4⟩ := withInputSlots_next h
      split at h4
      · rw [failCommand_running _ hw] at h4; cases h4; exact .inr ⟨_, by simp, rfl⟩
      · split at h4
        · rw [failCommand_running _ hw] at h4; cases h4; exact .inr ⟨_, by simp, rfl⟩
        · rename_i ds hds
          cases h4
          refine .inl ⟨_, rfl, ?_⟩
          rw [(pairDigits_spec ds (by rw [hexvals_length hds]; omega)).1, hexvals_length hds]
          have : (hexChars vs).length ≤ vs.length := (List.length_filter_le _ _).trans (by simp)
          have := (inputSlots_some h3).1
          omega
    · have h : execInWords s = .next t := h
      rw [execInWords, withRunning_some _ hw] at h
      obtain ⟨n, vs, h1, h2, h3, h4⟩ := withInputSlots_next h
      split at h4
      · rw [failCommand_running _ hw] at h4; cases h4; exact .inr ⟨_, by simp, rfl⟩
      · cases h4
        exact .inl ⟨_, rfl, by simp [(inputSlots_some h3).1, h2]⟩
    · have h : failCommand .inputUnsupported s = .next t := h
      rw [failCommand_running _ hw] at h; cases h; exact .inr ⟨_, by simp, rfl⟩

end Sys2Proof.Machine
end

