-- ==== Sys2Proof/Laws/Handlers.lean ====
section
/-! SUPPORT. The laws of the router's shared operations: a failure forgets the engine, what one position of the RHR loop
does, and what the loop does. -/

namespace Sys2Proof.Machine

/-! ### Failures -/

/-- `fail c` forgets what the engine held (R37, R135). -/
@[simp] theorem failWith_setEngine (s : State) (w : Working) (op : CmdOp) (c : StatusCode) :
    (s.setEngine w).failWith op c = s.failWith op c := by
  cases op <;> rfl

/-- A failed DECODE_FRAME leaves the same state from any two states that differ in outputs, STATUS and engine only
(R135). -/
theorem failWith_decodeFrame_congr {s t : State} (c : StatusCode)
    (h : { t.clearOutputs with status := .idle, engine := none } =
      { s.clearOutputs with status := .idle, engine := none }) :
    t.failWith .decodeFrame c = s.failWith .decodeFrame c :=
  congrArg (fun x : State => { x with status := c }) h

/-! ### The ingress of a command -/

/-- The ingress stage of a command in BYTES mode (R79, R80). -/
theorem ingress_beginCommand_bytes {s : State} {f : List Byte} (op : CmdOp) (h : HoldsAsBytes s f) :
    ingress (s.beginCommand op) =
      .next ((s.beginCommand op).setEngine { Working.start op with frame := f }) := by
  obtain ⟨hm, vs, hs, rfl⟩ := h
  unfold ingress
  simp only [beginCommand_inMode, hm]
  show execInBytes _ = _
  rw [execInBytes, withRunning_some (w := .start op) _ rfl,
    withInputSlots_holds _ (slotsHold_beginCommand op hs)]
  rfl

/-! ### The RHR loop -/

/-- The engine after one position of the RHR loop. -/
def afterPosition (tab : RegTable) (w : Working) : Working :=
  { w with
    raw := valueAt w.frame (3 + 2 * w.pos)
    write := false
    pos := w.pos + 1
    entries := w.entries ++
      [regDecodeEntry tab (logicalAddress w.pos) (valueAt w.frame (3 + 2 * w.pos)) false] }

/-- A position whose two bytes lie in the frame appends its entry (R104). -/
theorem rhrPosition_inside {s : State} {w : Working} (h : s.engine = some w)
    (hl : 2 * w.pos + 4 < w.frame.length) :
    rhrPosition s = .next (s.setEngine (afterPosition s.params.regTable w)) := by
  rw [rhrPosition, withRunning_some _ h, frameBE16_of_lt (by omega), withOperand_some,
    runRegDecode_running _ _ _ h, andThen_running _ rfl, withRunning_some _ rfl]
  rfl

/-- A position that reads past the frame ends the command (R46, R104). -/
theorem rhrPosition_overrun {s : State} {w : Working} (h : s.engine = some w)
    (hl : w.frame.length ≤ 2 * w.pos + 4) :
    rhrPosition s = .next (s.failWith w.op .payloadOverrun) := by
  rw [rhrPosition, withRunning_some _ h, frameBE16_of_ge (by omega), withOperand_none, failCommand_running _ h]

/-- The loop over positions that all lie in the frame appends their entries, in order (R104). -/
theorem rhrLoop_inside {n : Nat} {s : State} {w : Working} (h : s.engine = some w)
    (hl : n = 0 ∨ 2 * (w.pos + n) + 2 < w.frame.length) :
    ∃ w', rhrLoop n s = .next (s.setEngine w') ∧ w'.frame = w.frame ∧ w'.op = w.op ∧ w'.acc = w.acc ∧
      w'.exc = w.exc ∧
      w'.entries = w.entries ++ (List.range n).map fun i =>
        regDecodeEntry s.params.regTable (logicalAddress (w.pos + i)) (valueAt w.frame (3 + 2 * (w.pos + i)))
          false := by
  induction n generalizing s w with
  | zero => exact ⟨w, by simp [rhrLoop, State.setEngine, ← h], rfl, rfl, rfl, rfl, by simp⟩
  | succ n ih =>
    rw [rhrLoop, rhrPosition_inside h (by omega), andThen_running _ rfl]
    obtain ⟨w', h1, h2, h3, h4, h5, h6⟩ :=
      ih (s := s.setEngine (afterPosition s.params.regTable w)) (w := afterPosition s.params.regTable w) rfl
        (by simp only [afterPosition]; omega)
    refine ⟨w', h1, h2, h3, h4, h5, ?_⟩
    rw [h6, List.range_succ_eq_map]
    simp [Function.comp_def, afterPosition, Nat.add_assoc, Nat.add_comm 1]

/-- The loop over at least one position whose last value lies past the frame ends the command (R104). -/
theorem rhrLoop_overrun {n : Nat} {s : State} {w : Working} (h : s.engine = some w) (hn : 1 ≤ n)
    (hl : w.frame.length ≤ 2 * (w.pos + n) + 2) :
    rhrLoop n s = .next (s.failWith w.op .payloadOverrun) := by
  induction n generalizing s w with
  | zero => omega
  | succ n ih =>
    rw [rhrLoop]
    by_cases hp : w.frame.length ≤ 2 * w.pos + 4
    · rw [rhrPosition_overrun h hp, andThen_ended _ rfl]
    · rw [rhrPosition_inside h (by omega), andThen_running _ rfl,
        ih (w := afterPosition s.params.regTable w) rfl (by omega) (by simp only [afterPosition]; omega),
        failWith_setEngine]
      rfl

end Sys2Proof.Machine
end

