-- ==== Sys2Proof/Laws/PerInstr.lean ====
section
/-! SUPPORT. Statements about every instruction as syntax, one lemma per constructor (LAWS.json names the family). -/

namespace Sys2Proof.Laws.EncodingIsExact

/-- The encoded word stands in the instruction's own format, sets no ignored bit, and has as many bytes as its format
(R59, R60, R69, R70). -/
def Statement (i : Sys2Proof.Instr) : Prop :=
  (encode i).format = i.format ∧ (encode i).significant = encode i ∧
    (bytesOfCode (encode i)).length = i.format.bytes

theorem decodeFrame : Statement (.decodeFrame) := by
  refine ⟨rfl, ?_, rfl⟩; decide

theorem crcCheck : Statement (.crcCheck) := by
  refine ⟨rfl, ?_, rfl⟩; decide

theorem regDecode : Statement (.regDecode) := by
  refine ⟨rfl, ?_, rfl⟩; decide

theorem cmdReserved : Statement (.cmdReserved) := by
  refine ⟨rfl, ?_, rfl⟩; decide

theorem inBytes : Statement (.inBytes) := by
  refine ⟨rfl, ?_, rfl⟩; decide

theorem inHex : Statement (.inHex) := by
  refine ⟨rfl, ?_, rfl⟩; decide

theorem inWords : Statement (.inWords) := by
  refine ⟨rfl, ?_, rfl⟩; decide

theorem inReserved : Statement (.inReserved) := by
  refine ⟨rfl, ?_, rfl⟩; decide

theorem rhr : Statement (.rhr) := by
  refine ⟨rfl, ?_, rfl⟩; decide

theorem wsr : Statement (.wsr) := by
  refine ⟨rfl, ?_, rfl⟩; decide

theorem exc : Statement (.exc) := by
  refine ⟨rfl, ?_, rfl⟩; decide

theorem other (fc : Byte) : Statement (.other fc) := by
  exact ⟨rfl, rfl, rfl⟩

theorem unknown (a : Half) : Statement (.unknown a) := by
  exact ⟨rfl, rfl, rfl⟩

theorem errorCode : Statement (.errorCode) := by
  refine ⟨rfl, ?_, rfl⟩; decide

theorem statusFlags : Statement (.statusFlags) := by
  refine ⟨rfl, ?_, rfl⟩; decide

theorem carrierFreq : Statement (.carrierFreq) := by
  refine ⟨rfl, ?_, rfl⟩; decide

theorem measRange : Statement (.measRange) := by
  refine ⟨rfl, ?_, rfl⟩; decide

theorem statusCmd : Statement (.statusCmd) := by
  refine ⟨rfl, ?_, rfl⟩; decide

theorem generic (a : Half) : Statement (.generic a) := by
  exact ⟨rfl, rfl, rfl⟩

end Sys2Proof.Laws.EncodingIsExact
end

