-- ==== Sys2Proof/Machine/Script.lean ====
section
/-! DEFINITION. The host-script notation of R76 and R77: statements, their bus operations, and the pseudo-statements'
expansions. -/

namespace Sys2Proof.Machine

/-- A primitive statement of R76. -/
inductive Stmt where
  | wr (name : RegName) (v : Word)
  | wrbuf (k : Nat) (v : Word)
  | rd (name : RegName)
  | rdent (k w : Nat)
  | rdfb (k : Nat)
  | cmd (op : Word)
  deriving DecidableEq, Repr

/-- The bus operation of a statement (R76): one aligned 32-bit access. -/
def Stmt.encode : Stmt → BusAccess
  | .wr name v => .write (BitVec.ofNat 16 (offsetOf name)) 32 v
  | .wrbuf k v => .write (BitVec.ofNat 16 (inBufOffset k)) 32 v
  | .rd name => .read (BitVec.ofNat 16 (offsetOf name)) 32
  | .rdent k w => .read (BitVec.ofNat 16 (entryOffset k w)) 32
  | .rdfb k => .read (BitVec.ofNat 16 (frameBufOffset k)) 32
  | .cmd op => .write (BitVec.ofNat 16 (offsetOf .cmd)) 32 op

/-- `WRBUF k, v` for consecutive slots from `k` on. -/
def wrbufs (k : Nat) : List Word → List Stmt
  | [] => []
  | v :: rest => .wrbuf k v :: wrbufs (k + 1) rest

/-- The common expansion of the three LOAD pseudo-statements (R77). -/
def loadSlots (mode : Word) (vs : List Word) : List Stmt :=
  .wr .inMode mode :: .wr .inLen (BitVec.ofNat 32 vs.length) :: wrbufs 0 vs

/-- `LOADBYTES` (R77). -/
def loadBytes (bs : List Byte) : List Stmt := loadSlots 0 (bs.map zext32)

/-- `LOADHEX` (R77), by the characters' ASCII codes. -/
def loadHex (text : String) : List Stmt := loadSlots 1 (text.toList.map fun c => BitVec.ofNat 32 c.toNat)

/-- `LOADWORDS` (R77): a negative integer stands for its two's complement (R76). -/
def loadWords (ws : List Int) : List Stmt := loadSlots 2 (ws.map (BitVec.ofInt 32))

/-- `REGDEC a, r` (R77). -/
def regdec (a r : Word) : List Stmt := [.wr .regAddr a, .wr .regRaw r, .cmd 2]

/-- A host script as the events the host will make. -/
def scriptEvents (p : List Stmt) : List HostEvent := p.map fun st => .access st.encode

end Sys2Proof.Machine
end

