-- ==== Sys2Proof/Tests/Slice0.lean ====
section
/-! SUPPORT. The model's own tests: ill-formed terms, words written out from the spec's encodings, vectors of
95_test_vectors.md, and one witness for the hypotheses of every statement that has some. -/

namespace Sys2Proof.Tests

open Sys2Proof Sys2Proof.Machine

/-! ### Helpers -/

/-- What a next state shows. -/
def after {α : Type} (r : Result) (f : State → α) : Option α :=
  match r with
  | .next t => some (f t)
  | _ => none

theorem next_of_after {α : Type} {r : Result} {f : State → α} {x : α} (h : after r f = some x) :
    ∃ t, r = .next t ∧ f t = x := by
  cases r with
  | next t => exact ⟨t, rfl, by simpa [after] using h⟩
  | fault _ => cases h
  | refused _ => cases h

/-- The reset state with a loaded input. -/
def loaded (m : BitVec 2) (vs : List Word) : State :=
  { State.reset with inMode := some m, inLen := some (BitVec.ofNat 16 vs.length),
                     mem := Memory.empty.writeWords (inBufOffset 0) vs }

/-- The reset state with bytes loaded in BYTES mode. -/
def bytes (bs : List Byte) : State := loaded 0 (bs.map zext32)

/-- A running command with a frame. -/
def running (f : List Byte) : State :=
  { State.reset with engine := some { Working.start .decodeFrame with frame := f } }

/-- A running REG_DECODE with a raw value. -/
def decoding (raw : Half) : State :=
  { State.reset with engine := some { Working.start .regDecode with raw } }

/-- The first entry of the running command, as its four words. -/
def firstEntry (s : State) : Option (List Word) := s.engine.bind fun w => w.entries.head?.map pack

/-- The next host access on the reset state. -/
def accessing (a : BusAccess) (s : State) : State := { s with pending := [.access a] }

theorem slotsHold_loaded (m : BitVec 2) (vs : List Word) (h : vs.length ≤ 1024) : SlotsHold (loaded m vs) vs := by
  refine ⟨rfl, h, Nat.le_refl 1024, fun k v hk => ?_⟩
  have hl : k < vs.length := by
    by_contra hc
    simp [List.getElem?_eq_none (by omega : vs.length ≤ k)] at hk
  show (Memory.empty.writeWords 0x2000 vs).read (0x2000 + 4 * k) = some v
  rw [Memory.read_writeWords_at _ _ _ _ hl]
  simpa [List.getElem?_eq_getElem hl] using hk

theorem holdsAsBytes_bytes (bs : List Byte) (h : bs.length ≤ 1024) : HoldsAsBytes (bytes bs) bs := by
  refine ⟨rfl, _, slotsHold_loaded _ _ (by simpa using h), ?_⟩
  rw [List.map_map]
  refine (List.map_congr_left fun b _ => ?_).trans (List.map_id bs)
  simp [slotByte, zext32]

theorem holdsFrame_bytes (bs : List Byte) (h : bs.length ≤ 1024) : HoldsFrame (bytes bs) bs :=
  .inl (holdsAsBytes_bytes bs h)

theorem fix20_legal : legalTable fix20 = true := by decide +kernel

theorem defaultParams_legal : legalParams defaultParams = true := by
  simp only [legalParams, Bool.and_eq_true]
  exact ⟨⟨by decide, by decide⟩, fix20_legal⟩

/-! ### Ill-formed terms are refused -/

theorem test_wf_other_rhr : WellFormed fix20 (.other 0x03) = false := by decide
theorem test_wf_other_wsr : WellFormed fix20 (.other 0x06) = false := by decide
theorem test_wf_other_exc : WellFormed fix20 (.other 0x83) = false := by decide
theorem test_wf_unknown_described : WellFormed fix20 (.unknown 0x0001) = false := by decide
theorem test_wf_error_code_undescribed : WellFormed [] .errorCode = false := by decide
theorem test_wf_status_flags_undescribed : WellFormed [] .statusFlags = false := by decide
theorem test_wf_carrier_freq_undescribed : WellFormed [] .carrierFreq = false := by decide
theorem test_wf_meas_range_undescribed : WellFormed [] .measRange = false := by decide
theorem test_wf_status_cmd_undescribed : WellFormed [] .statusCmd = false := by decide
theorem test_wf_generic_undescribed : WellFormed fix20 (.generic 0x0008) = false := by decide
theorem test_wf_generic_override : WellFormed fix20 (.generic 0x0006) = false := by decide

/-! ### Words written out from the spec's encodings -/

/-- CMD words by R59, ignored bits set in each. -/
theorem test_decode_cmd :
    decode fix20 (.cmd 0b11111111111111111111111111111100#32) = .decodeFrame ∧
    decode fix20 (.cmd 0b00000000000000000000000000000101#32) = .crcCheck ∧
    decode fix20 (.cmd 0b10000000000000000000000000000010#32) = .regDecode ∧
    decode fix20 (.cmd 0b00000000000000000000000000000111#32) = .cmdReserved := by decide

/-- IN_MODE words by R60. -/
theorem test_decode_in_mode :
    decode fix20 (.inMode 0b00000000000000000000000000000100#32) = .inBytes ∧
    decode fix20 (.inMode 0b11111111111111111111111111111101#32) = .inHex ∧
    decode fix20 (.inMode 0b00000000000000010000000000000010#32) = .inWords ∧
    decode fix20 (.inMode 0b00000000000000000000000000000011#32) = .inReserved := by decide

/-- Function codes by R69; 0x86 is no exception response (R73). -/
theorem test_decode_frame :
    decode fix20 (.frame 0b00000011#8) = .rhr ∧ decode fix20 (.frame 0b00000110#8) = .wsr ∧
    decode fix20 (.frame 0b10000011#8) = .exc ∧ decode fix20 (.frame 0b10000110#8) = .other 0x86 := by decide

/-- Register addresses by R70, under FIX20. -/
theorem test_decode_reg_addr :
    decode fix20 (.regAddr 0b0000000000000110#16) = .errorCode ∧
    decode fix20 (.regAddr 0b0000000000000111#16) = .statusFlags ∧
    decode fix20 (.regAddr 0b0000000000010100#16) = .carrierFreq ∧
    decode fix20 (.regAddr 0b0000000000011001#16) = .measRange ∧
    decode fix20 (.regAddr 0b0001000000000001#16) = .statusCmd ∧
    decode fix20 (.regAddr 0b0001000000000000#16) = .generic 0x1000 ∧
    decode fix20 (.regAddr 0b0000000000001000#16) = .unknown 0x0008 := by decide

/-- An override address with no descriptor is UNKNOWN: that test comes first (R70). -/
theorem test_decode_unknown_first : decode [] (.regAddr 0x0006) = .unknown 0x0006 := by decide

/-- Bytes of another length are rejected by name. -/
theorem test_decode_bytes_rejected :
    decodeBytes fix20 .regAddr [0x06] = .error (.wrongLength .regAddr 1) ∧
    decodeBytes fix20 .regAddr [0x01, 0x10] = .ok .statusCmd ∧
    decodeBytes fix20 .cmd [0x02, 0xFF, 0xFF, 0xFF] = .ok .regDecode := ⟨rfl, rfl, rfl⟩

/-- Words of spec/opcode_table.json (assumption 1). -/
theorem test_decode_table_words :
    decodeTableWord 8 0x00 = some .decodeFrame ∧ decodeTableWord 8 0x83 = some .exc ∧
    decodeTableWord 16 0x0019 = some .measRange ∧ decodeTableWord 32 3 = some .cmdReserved ∧
    decodeTableWord 48 0x000800000002 = some .inWords ∧ decodeTableWord 0 0 = some (.other 0) ∧
    decodeTableWord 64 0 = none := by decide

/-- The step after `withFetchWord` runs the word's handler (V-D3's header: FUNC 0x2283). -/
theorem test_fetch_word_runs_exc :
    after (step (State.reset.withFetchWord 8 0x83)) (fun t => (t.status, t.func)) = some (.ok, some 0x2283) := by
  decide +kernel

/-! ### Vectors of 95_test_vectors.md -/

/-- R94's check value, over the nine characters "123456789". -/
theorem test_crc_check_value :
    crcBytes 0xFFFF [0x31, 0x32, 0x33, 0x34, 0x35, 0x36, 0x37, 0x38, 0x39] = 0x4B37 := by decide +kernel

/-- V-D1. -/
theorem test_decode_frame_exception :
    after (exec .decodeFrame (bytes [0x3F, 0x83, 0x02, 0xA1, 0x3D]))
      (fun t => (t.status, t.slaveAddr, t.func, t.exc, t.entryCount)) =
    some (.ok, some 0x3F, some 0x2283, some 0x001D0201, some 0) := by decide +kernel

/-- V-D15: STATUS_CMD "stop" with WRITE_OP. -/
theorem test_decode_frame_write :
    after (exec .decodeFrame (bytes [0x3F, 0x06, 0x10, 0x01, 0x00, 0x04, 0xD9, 0xD7]))
      (fun t => (t.func, readReg t (.entry 0 0), readReg t (.entry 0 1), readReg t (.entry 1 0))) =
    some (some 0x2106, some 0x0013140C, some 0x00041001, none) := by decide +kernel

/-- V-C8: a flipped body bit fails, and both checksums are reported. -/
theorem test_crc_check_flipped :
    after (exec .crcCheck (bytes [0x3F, 0x83, 0x03, 0xA1, 0x3D])) (fun t => (t.status, t.crcCalc, t.crcRecv)) =
    some (.checksum, some 0xFD60, some 0x3DA1) := by decide +kernel

/-- V-C3: an empty body. -/
theorem test_crc_check_empty_body :
    after (exec .crcCheck (bytes [0xFF, 0xFF])) (fun t => (t.status, t.crcCalc, t.frameLen)) =
    some (.ok, some 0xFFFF, some 2) := by decide

/-- V-R51: the largest scaled value, in words 2 and 3. -/
theorem test_reg_decode_wide :
    after (exec .regDecode { State.reset with regAddr := some 0x0013, regRaw := some 0xFFFF })
      (fun t => (t.status, readReg t (.entry 0 0), readReg t (.entry 0 2), readReg t (.entry 0 3))) =
    some (.ok, some 0x000AFF00, some 0x4230BDC0, some 0x0000000F) := by decide

/-- V-D29. -/
theorem test_reg_decode_unwritten :
    exec .regDecode { State.reset with regAddr := some 0x0013 } = .fault .inputUnwritten := rfl

/-- V-D28. -/
theorem test_cmd_reserved : after (exec .cmdReserved (bytes [1])) (fun t => (t.status, t.inLen)) =
    some (.badCommand, some 1) := by decide

/-- The slot 0x00000141 gives the byte 0x41 (R80). -/
theorem test_in_bytes_low_byte :
    after (exec .inBytes { loaded 0 [0x141] with engine := some (.start .crcCheck) })
      (fun t => t.engine.map (·.frame)) = some (some [0x41]) := by decide

/-- "3 F": interior whitespace is dropped, upper case is accepted (R83). -/
theorem test_in_hex_space :
    after (exec .inHex { loaded 1 [0x33, 0x20, 0x46] with engine := some (.start .crcCheck) })
      (fun t => t.engine.map (·.frame)) = some (some [0x3F]) := by decide

/-- "3g0": the odd count is tested before the bad digit (V-I7). -/
theorem test_in_hex_odd_first :
    after (exec .inHex { loaded 1 [0x33, 0x67, 0x30] with engine := some (.start .crcCheck) }) (·.status) =
    some .inputOddLength := by decide

/-- V-I14 and V-I16: -1 fails, 0 and 255 are accepted. -/
theorem test_in_words_negative :
    after (exec .inWords { loaded 2 [0xFFFFFFFF] with engine := some (.start .crcCheck) }) (·.status) =
    some .inputRange := by decide
theorem test_in_words_bounds :
    after (exec .inWords { loaded 2 [0, 255] with engine := some (.start .crcCheck) })
      (fun t => t.engine.map (·.frame)) = some (some [0, 255]) := by decide

/-- V-I18: IN_LEN is not read. -/
theorem test_in_reserved :
    after (exec .inReserved { State.reset with engine := some (.start .crcCheck) }) (·.status) =
    some .inputUnsupported := by decide

/-- V-D10: the value is the CRC bytes. -/
theorem test_rhr_reads_crc :
    after (exec .rhr (running [0x3F, 0x03, 0x02, 0xC0, 0xFD])) firstEntry =
    some (some [0x0000FF10, 0xC0FD0001, 0x004B62D4, 0]) := by decide

/-- V-D12: `2*3+3 = 9 > 7`. -/
theorem test_rhr_overrun :
    after (exec .rhr (running [0x3F, 0x03, 0x06, 0x00, 0x64, 0xD1, 0xAB])) (·.status) =
    some .payloadOverrun := by decide

/-- V-D16: an unknown address adds no entry. -/
theorem test_wsr_unknown :
    after (exec .wsr (running [0x3F, 0x06, 0x00, 0x08, 0x00, 0x05, 0xCC, 0xD5])) (fun t => t.engine.map (·.entries)) =
    some (some []) := by decide

/-- V-D21: the low byte of the value is F[5]. -/
theorem test_wsr_short :
    after (exec .wsr (running [0x3F, 0x06, 0x00, 0x14, 0x00, 0x3F, 0x8D])) firstEntry =
    some (some [0x000B280B, 0x003F0014, 0, 0]) := by decide

/-- V-D2: code 7 has the text T17. -/
theorem test_exc_unknown_code :
    after (exec .exc (running [0x3F, 0x83, 0x07, 0x61, 0x3E])) (fun t => t.engine.map fun w => excWord w.exc) =
    some (some 0x00110701) := by decide

/-- V-D5: 0x86 sets no exception. -/
theorem test_other_no_exception :
    after (exec (.other 0x86) (running [0x3F, 0x86, 0x02, 0xA2, 0x6D]))
      (fun t => t.engine.map fun w => excWord w.exc) = some (some 0x00FF0000) := by decide

/-- V-R17 and V-R18. -/
theorem test_error_code_last_text :
    after (exec .errorCode (decoding 16)) firstEntry = some (some [0x00051011, 0x00100006, 0, 0]) := by decide
theorem test_error_code_unknown :
    after (exec .errorCode (decoding 17)) firstEntry = some (some [0x00051111, 0x00110006, 0, 0]) := by decide

/-- V-R21 and V-R22. -/
theorem test_status_flags_water :
    after (exec .statusFlags (decoding 1)) firstEntry = some (some [0x0006FF32, 0x00010007, 0, 0]) := by decide
theorem test_status_flags_running :
    after (exec .statusFlags (decoding 2)) firstEntry = some (some [0x0006FF52, 0x00020007, 0, 0]) := by decide

/-- V-R26 and V-R30. -/
theorem test_carrier_freq_high :
    after (exec .carrierFreq (decoding 72)) firstEntry = some (some [0x000B2703, 0x00480014, 0, 0]) := by decide
theorem test_carrier_freq_low :
    after (exec .carrierFreq (decoding 0x0148)) firstEntry = some (some [0x000B2803, 0x01480014, 0, 0]) := by decide

/-- V-R34 and V-R35. -/
theorem test_status_cmd_reset :
    after (exec .statusCmd (decoding 17)) firstEntry = some (some [0x00131504, 0x00111001, 0, 0]) := by decide
theorem test_status_cmd_unknown :
    after (exec .statusCmd (decoding 16)) firstEntry = some (some [0x00131604, 0x00101001, 0, 0]) := by decide

/-- V-R37 and V-R38. -/
theorem test_meas_range_25 :
    after (exec .measRange (decoding 25)) firstEntry = some (some [0x000E1A05, 0x00190019, 0, 0]) := by decide
theorem test_meas_range_template :
    after (exec .measRange (decoding 7)) firstEntry = some (some [0x000E1B05, 0x00070019, 0, 0]) := by decide

/-- V-R45 and V-R50: the nearest thousandth, a tie up. -/
theorem test_generic_nearest :
    after (exec (.generic 0x0010) (decoding 2)) firstEntry =
    some (some [0x0007FF00, 0x00020010, 0x0000029B, 0]) := by decide
theorem test_generic_tie :
    after (exec (.generic 0x0012) (decoding 5)) firstEntry =
    some (some [0x0009FF00, 0x00050012, 0x00000003, 0]) := by decide

/-- V-R56. -/
theorem test_unknown_key :
    after (exec (.unknown 0xABCD) (decoding 0xFFFF)) firstEntry =
      some (some [0x00FFFF06, 0xFFFFABCD, 0x03E7FC18, 0]) ∧
    entryKey fix20 (regDecodeEntry fix20 0xABCD 0xFFFF false) = some "unknown_0xabcd" := by decide

/-- V-B10: the host writes 7 to IN_MODE; its two low bits are kept. -/
theorem test_host_write_in_mode :
    after (step (accessing (.write 0x008 32 7) State.reset)) (fun t => readReg t .inMode) =
    some (some 3) := by decide

/-- V-B13: OP = 2 whatever the ignored bits, and REG_RAW is NONE. -/
theorem test_host_cmd_fault :
    step (accessing (.write 0x000 32 0xFFFFFFFE) State.reset) = .fault .inputUnwritten := rfl

/-- The statements of R76 and R77 are bus operations. -/
theorem test_script_encoding :
    (regdec 0x0019 7).map Stmt.encode =
      [.write 0x010 32 0x19, .write 0x014 32 7, .write 0x000 32 2] ∧
    (Stmt.rdent 1 2).encode = .read 0x1018 32 ∧ (Stmt.rdfb 2).encode = .read 0x4008 32 := by decide

/-! ### Witnesses: states and operands that meet a statement's hypotheses -/

theorem witness_DecodeOfEncodeIsIdentity :
    WellFormed fix20 (.generic 0x1000) = true ∧ WellFormed fix20 (.unknown 0xFFFF) = true ∧
    WellFormed fix20 (.other 0xFF) = true ∧ WellFormed fix20 .statusCmd = true := by decide

theorem witness_CommandBitsAboveOpAreIgnored :
    (0xFFFFFFFE#32).extractLsb' 0 2 = (2#32).extractLsb' 0 2 := by decide

theorem witness_StepRunsTheDecodedCommand :
    NextAccess (accessing (.write 0 32 3) State.reset) (.write 0 32 3) [] := ⟨rfl, rfl⟩

theorem witness_StagesRunTheDecodedInstruction :
    (loaded 3 []).inMode = some 3 ∧
    ∃ w, (running [0x3F, 0x83]).engine = some w ∧ w.frame[1]? = some 0x83 := ⟨rfl, _, rfl, rfl⟩

/-- STATUS, the first register, and the last slot of IN_BUF. -/
theorem witness_HostReadReturnsTheRegister :
    (NextAccess (accessing (.read 0x004 32) State.reset) (.read 0x004 32) [] ∧
      readReg State.reset (regAt 1024 0x004) = some 0) ∧
    (let s := { State.reset with mem := Memory.empty.write 0x2FFC 7 }
     NextAccess (accessing (.read 0x2FFC 32) s) (.read 0x2FFC 32) [] ∧
      readReg s (regAt s.params.inDepth 0x2FFC) = some 7) := by
  refine ⟨⟨⟨rfl, rfl⟩, by decide⟩, ⟨rfl, rfl⟩, by decide⟩

/-- IN_MODE and the last word of ENTRY, right after reset. -/
theorem witness_HostReadOfNoneFaults :
    (NextAccess (accessing (.read 0x008 32) State.reset) (.read 0x008 32) [] ∧
      readReg State.reset (regAt 1024 0x008) = none) ∧
    NextAccess (accessing (.read 0x17FC 32) State.reset) (.read 0x17FC 32) [] ∧
      regAt 1024 0x17FC = .entry 127 3 ∧ readReg State.reset (regAt 1024 0x17FC) = none :=
  ⟨⟨⟨rfl, rfl⟩, rfl⟩, ⟨rfl, rfl⟩, by decide, rfl⟩

/-- The last slot of the deepest buffer. -/
theorem witness_HostWriteStoresTheInputRegister :
    State.reset.resetHeld = false ∧ 1023 < State.reset.params.inDepth ∧ State.reset.params.inDepth ≤ maxInDepth := by
  decide

/-- One access per clause: a width, an alignment, the first and the last reserved offset, CMD, the last read-only
word. -/
theorem witness_RefusedAccessesInOrder :
    State.reset.resetHeld = false ∧ (16 ≠ 32 ∨ (0x004#16).toNat % 4 ≠ 0) ∧ (32 ≠ 32 ∨ (0x002#16).toNat % 4 ≠ 0) ∧
    regAt 1024 0x034 = .reserved ∧ regAt 1024 0xFFFC = .reserved ∧ regAt 1024 0x000 = .cmd ∧
    regAt 1024 0x004 = .status ∧ regAt 1024 0x17FC = .entry 127 3 ∧ regAt 1024 0x4FFC = .frameBuf 1023 := by decide

/-- Both ends of every window, for the deepest and the shallowest block. -/
theorem witness_RegisterMapIsOneToOne :
    regAt 1024 0x1000 = .entry 0 0 ∧ regAt 1024 0x17FC = .entry 127 3 ∧ regAt 1024 0x2FFC = .inBuf 1023 ∧
    regAt 1024 0x3000 = .reserved ∧ regAt 1024 0x4FFC = .frameBuf 1023 ∧ regAt 1 0x2000 = .inBuf 0 ∧
    regAt 1 0x2004 = .reserved ∧ regAt 1 0x4000 = .frameBuf 0 ∧ 1024 ≤ maxInDepth := by decide

theorem witness_ReleasedResetIsTheResetState :
    let s := { bytes [1] with resetHeld := true, pending := [.releaseReset] }
    s.resetHeld = true ∧ s.pending = .releaseReset :: [] := ⟨rfl, rfl⟩

theorem witness_HeldBlockAcceptsNoAccess :
    let s := { State.reset with resetHeld := true, pending := [.access (.read 4 32)] }
    s.resetHeld = true ∧ s.pending = .access (.read 4 32) :: [] := ⟨rfl, rfl⟩

/-- A block whose host has selected an input mode meets the invariant, and it steps. -/
theorem witness_StepKeepsTheBlockInvariant :
    let s := accessing (.write 0x000 32 3) { State.reset with inMode := some 2 }
    BlockInv s ∧ ∃ t, step s = .next t := by
  refine ⟨⟨defaultParams_legal, rfl, rfl, fun o ho => ?_, ?_, ⟨by decide, fun k => ?_, fun k w _ _ => ?_⟩, fun _ _ => ?_⟩,
    _, rfl⟩
  · exact absurd ho (by simp [accessing, State.reset, State.resetWith])
  · simp [ReservedBitsZero, WhenSome, accessing, State.reset, State.resetWith]
  · simp [accessing, State.reset, State.resetWith, countOf]
  · simp [accessing, State.reset, State.resetWith, countOf]
  · exact ⟨rfl, rfl, rfl, rfl, rfl, rfl, rfl, fun _ _ => rfl⟩

theorem witness_ResetSatisfiesTheBlockInvariant : legalParams defaultParams = true := defaultParams_legal

theorem witness_StepKeepsMemoryCanonical :
    let s := accessing (.write 0x2000 32 7) (bytes [1, 2])
    s.mem.wf = true ∧ ∃ t, step s = .next t := ⟨by decide, _, rfl⟩

theorem witness_StepNeverChangesTheParameters :
    ∃ t, step (accessing (.write 0x000 32 3) (bytes [1, 2])) = .next t := ⟨_, rfl⟩

/-- Inside a command, elements that the three modes accept and elements that each mode fails on. -/
theorem witness_ingress_slots :
    ∀ vs : List Word, vs.length ≤ 1024 → ∃ w, { loaded 0 vs with engine := some (.start .crcCheck) }.engine = some w ∧
      SlotsHold { loaded 0 vs with engine := some (.start .crcCheck) } vs :=
  fun vs h => ⟨_, rfl, slotsHold_loaded 0 vs h⟩

theorem witness_InBytesTakesTheLowBytes :
    ∃ w, { loaded 0 [0x141] with engine := some (.start .crcCheck) }.engine = some w ∧
      SlotsHold { loaded 0 [0x141] with engine := some (.start .crcCheck) } [0x141] :=
  witness_ingress_slots _ (by decide)

/-- The characters of "3", "3g", "3F" and no character. -/
theorem witness_InHexPairsTheDigits :
    (hexChars [0x33]).length % 2 = 1 ∧
    ((hexChars [0x33, 0x67]).length % 2 = 0 ∧ ∃ c ∈ hexChars [0x33, 0x67], hexval c = none) ∧
    ((hexChars [0x33, 0x46]).length % 2 = 0 ∧ ∀ c ∈ hexChars [0x33, 0x46], hexval c ≠ none) ∧
    (hexChars []).length % 2 = 0 ∧
    ∃ w, { loaded 0 [0x33, 0x46] with engine := some (.start .crcCheck) }.engine = some w ∧
      SlotsHold { loaded 0 [0x33, 0x46] with engine := some (.start .crcCheck) } [0x33, 0x46] :=
  ⟨by decide, by decide, by decide, by decide, witness_ingress_slots _ (by decide)⟩

/-- Both sides of both ends of [0,255]. -/
theorem witness_InWordsChecksTheRange :
    (∃ v ∈ [(0 : Word), 256], v.toInt < 0 ∨ 255 < v.toInt) ∧ (∃ v ∈ [(0xFFFFFFFF : Word)], v.toInt < 0 ∨ 255 < v.toInt) ∧
    (∀ v ∈ [(0 : Word), 255], 0 ≤ v.toInt ∧ v.toInt ≤ 255) ∧
    ∃ w, { loaded 0 [0, 255] with engine := some (.start .crcCheck) }.engine = some w ∧
      SlotsHold { loaded 0 [0, 255] with engine := some (.start .crcCheck) } [0, 255] :=
  ⟨⟨256, by decide, by decide⟩, ⟨0xFFFFFFFF, by decide, by decide⟩, by simp, witness_ingress_slots _ (by decide)⟩

theorem witness_ReservedModeFailsUnsupported :
    (∃ w, (running []).engine = some w) ∧ (loaded 3 []).inMode = some 3 := ⟨⟨_, rfl⟩, rfl⟩

/-- One state per clause: no mode, no length, one element too many, the last element unwritten. -/
theorem witness_MissingInputsStopTheCommand :
    State.reset.inMode = none ∧
    (let s := { State.reset with inMode := some 2 }
     s.inMode = some 2 ∧ s.inLen = none) ∧
    (let s := { State.reset with inMode := some 2, inLen := some 1025 }
     s.inLen = some 1025 ∧ s.params.inDepth < (1025#16).toNat) ∧
    (let s := { loaded 0 [1] with inLen := some 2 }
     (2#16).toNat ≤ s.params.inDepth ∧ 1 < (2#16).toNat ∧ s.mem.read (inBufOffset 1) = none) := by
  refine ⟨rfl, ⟨rfl, rfl⟩, ⟨rfl, by decide⟩, by decide, by decide, rfl⟩

/-- The byte 0x3F in the three encodings, the text with a space in the pair and in upper case. -/
theorem witness_InputEncodingsAreEquivalent :
    HoldsAsBytes (loaded 0 [0x13F]) [0x3F] ∧ HoldsAsHex (loaded 1 [0x33, 0x20, 0x46]) [0x3F] ∧
    HoldsAsWords (loaded 2 [0x3F]) [0x3F] ∧ (loaded 0 [0x13F]).params = (loaded 1 [0x33, 0x20, 0x46]).params := by
  refine ⟨⟨rfl, _, slotsHold_loaded _ _ (by decide), by decide⟩, ⟨rfl, _, slotsHold_loaded _ _ (by decide), by decide, ?_⟩,
    ⟨rfl, slotsHold_loaded _ _ (by decide)⟩, rfl⟩
  intro k b hb
  match k, hb with
  | 0, hb =>
    cases hb
    exact ⟨0x33, 0x46, by decide, by decide, .inl (by decide), .inl (by decide)⟩

theorem witness_FrameLengthIsBounded :
    ∀ (m : BitVec 2) (i : Instr), (m, i) ∈ [(0, Instr.inBytes), (1, .inHex), (2, .inWords)] →
      ∃ t w, exec i { loaded m [0x33, 0x46] with engine := some (.start .crcCheck) } = .next t ∧ t.engine = some w ∧
        inputSlots (loaded m [0x33, 0x46]).mem 0 (2#16).toNat = some [0x33, 0x46] := by
  intro m i h
  simp only [List.mem_cons, List.not_mem_nil, or_false, Prod.mk.injEq] at h
  rcases h with ⟨rfl, rfl⟩ | ⟨rfl, rfl⟩ | ⟨rfl, rfl⟩ <;> exact ⟨_, _, rfl, rfl, by decide⟩

/-- An empty body and a body of one byte (V-C3, V-C5). -/
theorem witness_AppendedChecksumPasses :
    (∃ w, (running ([] ++ crcTail (crcBytes 0xFFFF []))).engine = some w ∧
      w.frame = [] ++ crcTail (crcBytes 0xFFFF [])) ∧
    HoldsFrame (bytes ([] ++ crcTail (crcBytes 0xFFFF []))) ([] ++ crcTail (crcBytes 0xFFFF [])) ∧
    HoldsFrame (bytes ([0x3F] ++ crcTail (crcBytes 0xFFFF [0x3F]))) ([0x3F] ++ crcTail (crcBytes 0xFFFF [0x3F])) :=
  ⟨⟨_, rfl, rfl⟩, holdsFrame_bytes _ (by decide), holdsFrame_bytes _ (by decide)⟩

/-- The first bit of the body and the last bit of the checksum of V-C7. -/
theorem witness_AnySingleBitFlipFailsTheCheck :
    let f : List Byte := [0x3F, 0x83, 0x02, 0xA1, 0x3D]
    2 ≤ f.length ∧ 4 ≤ f.length ∧ crcCalc f = receivedCrc f ∧ 4 < f.length ∧
    (∃ w, (running (flipBit f 4 7)).engine = some w ∧ w.frame = flipBit f 4 7) ∧
    HoldsFrame (bytes (flipBit f 0 0)) (flipBit f 0 0) ∧ HoldsFrame (bytes (flipBit f 4 7)) (flipBit f 4 7) :=
  ⟨by decide, by decide, by decide +kernel, by decide, ⟨_, rfl, rfl⟩, holdsFrame_bytes _ (by decide),
    holdsFrame_bytes _ (by decide)⟩

theorem witness_PassingFrameHasZeroResidue :
    2 ≤ [(0xFF : Byte), 0xFF].length ∧ crcCalc [0xFF, 0xFF] = receivedCrc [0xFF, 0xFF] := by decide

/-- One frame per outcome: too short, a passing and a failing checksum (V-C2 to V-C4). -/
theorem witness_CrcCheckReportsFrameAndChecksums :
    HoldsFrame (bytes [0x3F]) [0x3F] ∧ HoldsFrame (bytes [0xFF, 0xFF]) [0xFF, 0xFF] ∧
    crcCalc [0xFF, 0xFF] = receivedCrc [0xFF, 0xFF] ∧ HoldsFrame (bytes [0, 0]) [0, 0] ∧
    crcCalc [0, 0] ≠ receivedCrc [0, 0] :=
  ⟨holdsFrame_bytes _ (by decide), holdsFrame_bytes _ (by decide), by decide, holdsFrame_bytes _ (by decide),
    by decide⟩

/-- One frame per clause: no position, a last value that ends with the frame, a last value one byte past it. -/
theorem witness_RhrDecodesEveryPosition :
    (∃ w, (running [0x3F, 3, 1, 0, 0]).engine = some w ∧ w.frame[2]? = some 1 ∧ (1#8).toNat / 2 = 0) ∧
    (∃ w, (running [0x3F, 3, 2, 0, 0]).engine = some w ∧ w.frame[2]? = some 2 ∧ 2 * 1 + 3 ≤ w.frame.length) ∧
    ∃ w, (running [0x3F, 3, 2, 0]).engine = some w ∧ w.frame[2]? = some 2 ∧ w.frame.length < 2 * 1 + 3 :=
  ⟨⟨_, rfl, rfl, by decide⟩, ⟨_, rfl, rfl, by decide⟩, _, rfl, rfl, by decide⟩

/-- One frame per clause: five bytes, and six with an unknown and a described address. -/
theorem witness_WsrDecodesOneRegister :
    (∃ w, (running [0x3F, 6, 0, 1, 0]).engine = some w ∧ w.frame.length < 6) ∧
    (∃ w, (running [0x3F, 6, 0, 8, 0, 0]).engine = some w ∧ 6 ≤ w.frame.length ∧
      lookup fix20 (valueAt w.frame 2) = none) ∧
    ∃ w, (running [0x3F, 6, 0, 1, 0, 0]).engine = some w ∧ 6 ≤ w.frame.length ∧
      lookup fix20 (valueAt w.frame 2) ≠ none :=
  ⟨⟨_, rfl, by decide⟩, ⟨_, rfl, by decide, by decide⟩, _, rfl, by decide, by decide⟩

theorem witness_ExcTakesTheExceptionCode :
    ∃ w, (running [0x3F, 0x83, 0x04]).engine = some w ∧ w.frame[2]? = some 4 := ⟨_, rfl, rfl⟩

theorem witness_OtherCarriesNoPayload : ∃ w, (running [0x3F, 0x86]).engine = some w := ⟨_, rfl⟩

/-- The shortest frame with the smallest other code, and the code next above 0x83. -/
theorem witness_OtherCodesDecodeStructurally :
    (∃ w, (running [0x3F, 0x00]).engine = some w ∧ w.frame[1]? = some 0x00) ∧
    (∃ w, (running [0x3F, 0x84]).engine = some w ∧ w.frame[1]? = some 0x84) ∧
    (0x00 : Byte) ≠ 0x03 ∧ (0x84 : Byte) ≠ 0x83 := ⟨⟨_, rfl, rfl⟩, ⟨_, rfl, rfl⟩, by decide, by decide⟩

/-- The five override registers, a generic and an unknown one, under FIX20. -/
theorem witness_EntryOfRaw :
    (∃ w, (decoding 16).engine = some w) ∧
    [(0x0006 : Half), 0x0007, 0x0014, 0x1001, 0x0019, 0x0010].all
      (fun a => (lookup (decoding 16).params.regTable a).isSome) = true ∧
    lookup (decoding 16).params.regTable 0xFFFF = none :=
  ⟨⟨_, rfl⟩, by decide +kernel, by decide +kernel⟩

theorem witness_RegDecodeIsTotal : ∃ w, (decoding 0xFFFF).engine = some w := ⟨_, rfl⟩

theorem witness_OverridesIgnoreTheScale :
    (0x1001 : Half) ∈ [(0x0006 : Half), 0x0007, 0x0014, 0x0019, 0x1001] ∧ lookup fix20 0x0008 = none := by decide

/-- The largest legal numerator over the smallest legal denominator. -/
theorem witness_ScaledValueIsNearestAndFits :
    legalScale { address := 1, name := "x", unit := "", description := "", readOnly := false,
                 scale := some ⟨65535, 1⟩ } = true := by decide

theorem witness_LegalTablesDescribeTheOverrides : legalTable fix20 = true := fix20_legal

/-- The last position of a frame that ends with its value, at address 0x0008. -/
theorem witness_UnknownRegistersArePreserved :
    ∃ w, (running ([0x3F, 3, 16] ++ List.replicate 16 0)).engine = some w ∧ w.frame[2]? = some 16 ∧
      2 * ((16#8).toNat / 2) + 3 ≤ w.frame.length ∧ 7 < (16#8).toNat / 2 ∧ lookup fix20 (logicalAddress 7) = none :=
  ⟨_, rfl, by decide, by decide, by decide, by decide⟩

theorem witness_RegDecodeCommandGivesOneEntry :
    (let s := { State.reset with regAddr := some 0x0013, regRaw := some 0xFFFF }
     s.regAddr = some 0x0013 ∧ s.regRaw = some 0xFFFF) ∧ State.reset.regRaw = none := ⟨⟨rfl, rfl⟩, rfl⟩

/-- The empty frame and a frame of four bytes. -/
theorem witness_DecodeFrameRefinesThePureDecoder :
    HoldsFrame (bytes []) [] ∧ HoldsFrame (bytes [0x3F, 0x10, 0x11, 0x8C]) [0x3F, 0x10, 0x11, 0x8C] :=
  ⟨holdsFrame_bytes _ (by decide), holdsFrame_bytes _ (by decide)⟩

/-- The frame of V-D10, its one entry decoded. -/
def readFrame : List Byte := [0x3F, 0x03, 0x02, 0xC0, 0xFD]

theorem readFrame_decodes :
    decodeReference fix20 readFrame = .ok ([regDecodeEntry fix20 0x0001 0xC0FD false], .none) := by
  have h1 : crcCalc readFrame = receivedCrc readFrame := by decide +kernel
  have h2 : ¬ readFrame.length < 4 := by decide
  rw [decodeReference, if_neg h2, if_neg (not_not.2 h1)]
  rfl

theorem readFrame_ends : ∃ t, exec .decodeFrame (bytes readFrame) = .next t ∧ t.status = .ok :=
  next_of_after (f := (·.status)) (by decide +kernel)

theorem witness_DecodeFrameWindowsReadBack :
    ∃ t es x, HoldsFrame (bytes readFrame) readFrame ∧
      decodeReference (bytes readFrame).params.regTable readFrame = .ok (es, x) ∧
      exec .decodeFrame (bytes readFrame) = .next t := by
  obtain ⟨t, ht, _⟩ := readFrame_ends
  exact ⟨t, _, _, holdsFrame_bytes _ (by decide), readFrame_decodes, ht⟩

theorem witness_FailedDecodeFrameLeavesNothing :
    ∃ t, exec .decodeFrame (bytes [0x3F, 0xFF, 0x50]) = .next t ∧ t.status ≠ .ok := by
  obtain ⟨t, ht, hs⟩ := next_of_after (r := exec .decodeFrame (bytes [0x3F, 0xFF, 0x50])) (f := (·.status))
    (x := .frameTooShort) (by decide +kernel)
  exact ⟨t, ht, by rw [hs]; decide⟩

/-- Each of the four commands ends in a next state. -/
theorem witness_CommandsKeepTheInputs :
    (∃ t, exec .decodeFrame (bytes readFrame) = .next t) ∧
    (∃ t, exec .crcCheck (bytes [0xFF, 0xFF]) = .next t) ∧
    (∃ t, exec .regDecode { State.reset with regAddr := some 0x0008, regRaw := some 0 } = .next t) ∧
    (∃ t, exec .cmdReserved State.reset = .next t) ∧
    ∀ i ∈ [Instr.decodeFrame, .crcCheck, .regDecode, .cmdReserved], i.format = .cmd := by
  obtain ⟨t, ht, _⟩ := readFrame_ends
  refine ⟨⟨t, ht⟩, ⟨_, rfl⟩, ⟨_, rfl⟩, ⟨_, rfl⟩, by decide⟩

/-- Two states that differ in STATUS, FUNC and the engine. -/
theorem witness_CommandsDependOnInputsOnly :
    let t := { bytes readFrame with status := .checksum, func := some 7, engine := some (.start .regDecode) }
    (bytes readFrame).params = t.params ∧ SameInputs (bytes readFrame) t :=
  ⟨rfl, rfl, rfl, rfl, rfl, fun _ _ => rfl⟩

theorem witness_DecodeFrameIsIdempotent :
    (bytes readFrame).mem.wf = true ∧ ∃ t, exec .decodeFrame (bytes readFrame) = .next t :=
  ⟨by decide, readFrame_ends.imp fun _ h => h.1⟩

/-- A frame of each of the three clauses: 0x03, 0x06 and another function code. -/
theorem witness_EntryCountFollowsTheFunctionCode :
    (∃ t, exec .decodeFrame (bytes readFrame) = .next t ∧ t.status = .ok) ∧
    (∃ t, exec .decodeFrame (bytes [0x3F, 0x06, 0x00, 0x14, 0xEC, 0x3E]) = .next t ∧ t.status = .ok) ∧
    ∃ t, exec .decodeFrame (bytes [0x3F, 0x10, 0x11, 0x8C]) = .next t ∧ t.status = .ok :=
  ⟨readFrame_ends, next_of_after (f := (·.status)) (by decide +kernel),
    next_of_after (f := (·.status)) (by decide +kernel)⟩

/-- The frames of V-D4 and a longer one with the same header. -/
theorem witness_StructuralDecodingIgnoresThePayload :
    let f1 : List Byte := [0x3F, 0x10, 0x11, 0x8C]
    let f2 : List Byte := [0x3F, 0x10, 0x00] ++ crcTail (crcBytes 0xFFFF [0x3F, 0x10, 0x00])
    HoldsFrame (bytes f1) f1 ∧ HoldsFrame (bytes f2) f2 ∧ 4 ≤ f1.length ∧ 4 ≤ f2.length ∧
    crcCalc f1 = receivedCrc f1 ∧ crcCalc f2 = receivedCrc f2 ∧ f1.take 2 = f2.take 2 ∧ f1[1]? ≠ some 0x03 ∧
    f1[1]? ≠ some 0x06 ∧ f1[1]? ≠ some 0x83 :=
  ⟨holdsFrame_bytes _ (by decide), holdsFrame_bytes _ (by decide), by decide, by decide, by decide +kernel,
    by decide +kernel, by decide, by decide, by decide, by decide⟩

/-- A read frame, and an exception response (V-D1) for the clause about `error`. -/
theorem witness_CanonicalResultOfDecodeFrame :
    legalParams (bytes readFrame).params = true ∧
    (∃ t es x, HoldsFrame (bytes readFrame) readFrame ∧
      decodeReference (bytes readFrame).params.regTable readFrame = .ok (es, x) ∧
      exec .decodeFrame (bytes readFrame) = .next t ∧ x.valid = false) ∧
    ∃ es x, decodeReference fix20 [0x3F, 0x83, 0x02, 0xA1, 0x3D] = .ok (es, x) ∧ x.valid = true := by
  obtain ⟨t, ht, _⟩ := readFrame_ends
  refine ⟨defaultParams_legal, ⟨t, _, _, holdsFrame_bytes _ (by decide), readFrame_decodes, ht, rfl⟩, [],
    { valid := true, code := 2, text := 29 }, ?_, rfl⟩
  have h1 : crcCalc [0x3F, 0x83, 0x02, 0xA1, 0x3D] = receivedCrc [0x3F, 0x83, 0x02, 0xA1, 0x3D] := by decide +kernel
  rw [decodeReference, if_neg (by decide), if_neg (not_not.2 h1)]
  rfl

theorem witness_EntryKeysAreDistinct :
    legalTable fix20 = true ∧ ∃ es x, decodeReference fix20 readFrame = .ok (es, x) :=
  ⟨fix20_legal, _, _, readFrame_decodes⟩

end Sys2Proof.Tests
end

section
/-! PROOFS about REGTAB, the keys of a frame's entries and the state after reset (00_scope.md R7, R8). -/

namespace Sys2Proof.Machine

/-! ### What a legal table satisfies (R8) -/

/-- `legalTable` with its seven items by name, in the order of R8. -/
structure LegalTable (tab : RegTable) : Prop where
  addresses_nodup : (tab.map (·.address)).Nodup
  names_nodup : (tab.map (·.name)).Nodup
  length_eq : tab.length = 20
  catalogue : ∀ d ∈ tab, inCatalogue d.address = true
  overrides : ∀ p ∈ overrideNames, ∃ d ∈ tab, d.address = p.1 ∧ d.name = p.2
  required : ∀ n ∈ requiredNames, ∃ d ∈ tab, d.name = n
  scales : ∀ d ∈ tab, legalScale d = true
  names_legal : ∀ d ∈ tab, legalName d = true

theorem legalTable_iff (tab : RegTable) : legalTable tab = true ↔ LegalTable tab := by
  have items : legalTable tab = true ↔
      (((((((tab.map (·.address)).Nodup ∧ (tab.map (·.name)).Nodup) ∧ tab.length = 20) ∧
        (∀ d ∈ tab, inCatalogue d.address = true)) ∧
        (∀ p ∈ overrideNames, ∃ d ∈ tab, d.address = p.1 ∧ d.name = p.2)) ∧
        (∀ n ∈ requiredNames, ∃ d ∈ tab, d.name = n)) ∧
        (∀ d ∈ tab, legalScale d = true)) ∧ (∀ d ∈ tab, legalName d = true) := by
    simp only [legalTable, Bool.and_eq_true, decide_eq_true_eq, beq_iff_eq, List.all_eq_true, List.any_eq_true]
  rw [items]
  constructor
  · rintro ⟨⟨⟨⟨⟨⟨⟨ha, hn⟩, hl⟩, hc⟩, ho⟩, hr⟩, hs⟩, hp⟩
    exact ⟨ha, hn, hl, hc, ho, hr, hs, hp⟩
  · rintro ⟨ha, hn, hl, hc, ho, hr, hs, hp⟩
    exact ⟨⟨⟨⟨⟨⟨⟨ha, hn⟩, hl⟩, hc⟩, ho⟩, hr⟩, hs⟩, hp⟩

theorem LegalTable.eq_of_address_eq {tab : RegTable} (h : LegalTable tab) {d d' : Descriptor}
    (hd : d ∈ tab) (hd' : d' ∈ tab) (ha : d.address = d'.address) : d = d' :=
  List.inj_on_of_nodup_map h.addresses_nodup hd hd' ha

theorem LegalTable.eq_of_name_eq {tab : RegTable} (h : LegalTable tab) {d d' : Descriptor}
    (hd : d ∈ tab) (hd' : d' ∈ tab) (hn : d.name = d'.name) : d = d' :=
  List.inj_on_of_nodup_map h.names_nodup hd hd' hn

/-! ### Lookup (R36) -/

theorem lookupFrom_some {tab : RegTable} {k j : Nat} {a : Half} {d : Descriptor}
    (h : lookupFrom k tab a = some (j, d)) : ∃ i, j = k + i ∧ tab[i]? = some d ∧ d.address = a := by
  induction tab generalizing k with
  | nil => cases h
  | cons c rest ih =>
    rw [lookupFrom] at h
    split at h
    case isTrue hc =>
      cases h
      exact ⟨0, rfl, rfl, hc⟩
    case isFalse =>
      obtain ⟨i, rfl, hi, ha⟩ := ih h
      exact ⟨i + 1, by omega, hi, ha⟩

theorem lookupFrom_none_iff (tab : RegTable) (k : Nat) (a : Half) :
    lookupFrom k tab a = none ↔ ∀ d ∈ tab, d.address ≠ a := by
  induction tab generalizing k with
  | nil => simp [lookupFrom]
  | cons c rest ih => by_cases hc : c.address = a <;> simp [lookupFrom, hc, ih]

/-- A lookup that finds a descriptor gives its list position and one with the address asked for. -/
theorem lookup_some {tab : RegTable} {a : Half} {j : Nat} {d : Descriptor} (h : lookup tab a = some (j, d)) :
    tab[j]? = some d ∧ d.address = a := by
  obtain ⟨i, rfl, hi, ha⟩ := lookupFrom_some h
  exact ⟨by rwa [Nat.zero_add], ha⟩

theorem lookup_none_iff (tab : RegTable) (a : Half) : lookup tab a = none ↔ ∀ d ∈ tab, d.address ≠ a :=
  lookupFrom_none_iff tab 0 a

/-- In a legal table every position `lookup` gives is below 20, so it is no 0xFF and fits DESC_INDEX (R30). -/
theorem LegalTable.lookup_lt {tab : RegTable} (h : LegalTable tab) {a : Half} {j : Nat} {d : Descriptor}
    (hl : lookup tab a = some (j, d)) : j < 20 := by
  obtain ⟨hj, _⟩ := List.getElem?_eq_some_iff.1 (lookup_some hl).1
  rwa [← h.length_eq]

/-- Addresses are distinct (R8 item 1), so a lookup finds the only descriptor of the address. -/
theorem LegalTable.lookup_of_mem {tab : RegTable} (h : LegalTable tab) {d : Descriptor} (hd : d ∈ tab) :
    ∃ j, lookup tab d.address = some (j, d) := by
  cases hl : lookup tab d.address with
  | none => exact absurd rfl ((lookup_none_iff tab _).1 hl d hd)
  | some p =>
    obtain ⟨j, d'⟩ := p
    obtain ⟨hj, ha⟩ := lookup_some hl
    obtain rfl := h.eq_of_address_eq (List.mem_of_getElem? hj) hd ha
    exact ⟨j, rfl⟩

theorem LegalTable.lookup_none_of_not_inCatalogue {tab : RegTable} (h : LegalTable tab) {a : Half}
    (ha : inCatalogue a = false) : lookup tab a = none := by
  rw [lookup_none_iff]
  rintro d hd rfl
  exact Bool.false_ne_true (ha.symm.trans (h.catalogue d hd))

/-! ### Texts in keys (R13, R128) -/

theorem hexLower_inj {a b : Nat} (ha : a < 16) (hb : b < 16) (h : hexLower a = hexLower b) : a = b := by
  have all : ∀ a b : Fin 16, hexLower a = hexLower b → a = b := by decide
  exact congrArg Fin.val (all ⟨a, ha⟩ ⟨b, hb⟩ h)

theorem hex4_inj {a b : Half} (h : hex4 a = hex4 b) : a = b := by
  have ha := a.isLt
  have hb := b.isLt
  have digits := congrArg String.toList h
  simp only [hex4, String.toList_ofList, List.cons.injEq, and_true] at digits
  obtain ⟨h3, h2, h1, h0⟩ := digits
  have e3 := hexLower_inj (by omega) (by omega) h3
  have e2 := hexLower_inj (by omega) (by omega) h2
  have e1 := hexLower_inj (by omega) (by omega) h1
  have e0 := hexLower_inj (by omega) (by omega) h0
  exact BitVec.eq_of_toNat_eq (by omega)

/-- The key of an UNKNOWN entry (R128). -/
def unknownKey (a : Half) : String := "unknown_0x" ++ hex4 a

theorem unknownKey_inj {a b : Half} (h : unknownKey a = unknownKey b) : a = b :=
  hex4_inj ((String.append_right_inj _).1 h)

/-- R8 item 7 keeps the names of a table apart from the keys of UNKNOWN entries. -/
theorem name_ne_unknownKey {d : Descriptor} (h : legalName d = true) (a : Half) : d.name ≠ unknownKey a := by
  intro hn
  have hp : "unknown_0x".toList <+: d.name.toList := by
    rw [hn, unknownKey, String.toList_append]
    exact List.prefix_append _ _
  rw [legalName, List.isPrefixOf_iff_prefix.2 hp] at h
  cases h

/-! ### Keys of entries (R128) -/

theorem knownEntry_descIndex (b : Entry) (d : Descriptor) : (knownEntry b d).descIndex = b.descIndex := by
  unfold knownEntry
  repeat' split
  all_goals rfl

theorem knownEntry_kind_ne_unknown (b : Entry) (d : Descriptor) : (knownEntry b d).kind ≠ .unknown := by
  unfold knownEntry
  repeat' split
  all_goals exact EntryKind.noConfusion

theorem entryKey_of_kind_ne_unknown (tab : RegTable) {e : Entry} (h : e.kind ≠ .unknown) :
    entryKey tab e = tab[e.descIndex.toNat]?.map (·.name) := by
  unfold entryKey
  split
  case h_1 hk => exact absurd hk h
  case h_2 => rfl

theorem entryKey_unknownEntry (tab : RegTable) (a raw : Half) :
    entryKey tab (unknownEntry a raw) = some (unknownKey a) := rfl

/-- The key an address has under a table: the name of its descriptor, or the text of an UNKNOWN entry. -/
def addressKey (tab : RegTable) (a : Half) : String :=
  match lookup tab a with
  | none => unknownKey a
  | some (_, d) => d.name

theorem addressKey_of_none {tab : RegTable} {a : Half} (h : lookup tab a = none) :
    addressKey tab a = unknownKey a := by
  rw [addressKey, h]

theorem addressKey_of_some {tab : RegTable} {a : Half} {j : Nat} {d : Descriptor}
    (h : lookup tab a = some (j, d)) : addressKey tab a = d.name := by
  rw [addressKey, h]

/-- Under a legal table the key of a decoded entry exists and depends on its address alone (R119, R128). -/
theorem LegalTable.entryKey_regDecodeEntry {tab : RegTable} (h : LegalTable tab) (a raw : Half) (w : Bool) :
    entryKey tab (regDecodeEntry tab a raw w) = some (addressKey tab a) := by
  cases hl : lookup tab a with
  | none => rw [regDecodeEntry, hl, addressKey_of_none hl, entryKey_unknownEntry]
  | some p =>
    obtain ⟨j, d⟩ := p
    have hj : (BitVec.ofNat 8 j).toNat = j := by
      have := h.lookup_lt hl
      rw [BitVec.toNat_ofNat]
      omega
    rw [regDecodeEntry, hl, addressKey_of_some hl]
    calc entryKey tab (knownEntry (baseEntry j d a raw w) d)
        = tab[(BitVec.ofNat 8 j).toNat]?.map (·.name) := by
          rw [entryKey_of_kind_ne_unknown tab (knownEntry_kind_ne_unknown _ d), knownEntry_descIndex]
          rfl
      _ = some d.name := by rw [hj, (lookup_some hl).1, Option.map_some]

/-- Under a legal table two addresses with one key are the same address (R8 items 1, 2 and 7). -/
theorem LegalTable.addressKey_inj {tab : RegTable} (h : LegalTable tab) {a b : Half}
    (hk : addressKey tab a = addressKey tab b) : a = b := by
  cases ha : lookup tab a with
  | none =>
    rw [addressKey_of_none ha] at hk
    cases hb : lookup tab b with
    | none =>
      rw [addressKey_of_none hb] at hk
      exact unknownKey_inj hk
    | some q =>
      rw [addressKey_of_some hb] at hk
      have hd := h.names_legal _ (List.mem_of_getElem? (lookup_some hb).1)
      exact absurd hk.symm (name_ne_unknownKey hd a)
  | some p =>
    obtain ⟨hpos, haddr⟩ := lookup_some ha
    rw [addressKey_of_some ha] at hk
    have hd := List.mem_of_getElem? hpos
    cases hb : lookup tab b with
    | none =>
      rw [addressKey_of_none hb] at hk
      exact absurd hk (name_ne_unknownKey (h.names_legal _ hd) b)
    | some q =>
      obtain ⟨hpos', haddr'⟩ := lookup_some hb
      rw [addressKey_of_some hb] at hk
      rw [← haddr, ← haddr', h.eq_of_name_eq hd (List.mem_of_getElem? hpos') hk]

/-! ### Keys of a frame's entries -/

theorem logicalAddress_inj {i k : Nat} (hi : i < 2 ^ 16 - 1) (hk : k < 2 ^ 16 - 1)
    (h : logicalAddress i = logicalAddress k) : i = k := by
  have hn := congrArg BitVec.toNat h
  simp only [logicalAddress, BitVec.toNat_ofNat] at hn
  omega

theorem registerCount_lt (b : Byte) : registerCount b < 128 := by
  have := b.isLt
  unfold registerCount
  omega

/-- The entries a decoded frame can carry: the positions of a 0x03 frame, one register of a 0x06 frame, or none (R103
to R107). -/
theorem decodeReference_ok {tab : RegTable} {f : List Byte} {es : List Entry} {x : ExcInfo}
    (h : decodeReference tab f = .ok (es, x)) :
    es = rhrEntries tab f (registerCount (f.getD 2 0)) ∨
    es = [regDecodeEntry tab (valueAt f 2) (valueAt f 4) true] ∨ es = [] := by
  unfold decodeReference framePayload at h
  simp only at h
  split at h
  case isTrue => cases h
  split at h
  case isTrue => cases h
  split at h
  case isTrue =>
    split at h <;> cases h
    exact .inl rfl
  split at h
  case isTrue =>
    split at h <;> cases h
    unfold wsrEntries
    split
    · exact .inr (.inr rfl)
    · exact .inr (.inl rfl)
  split at h <;> cases h <;> exact .inr (.inr rfl)

theorem LegalTable.map_entryKey_rhrEntries {tab : RegTable} (h : LegalTable tab) (f : List Byte) (n : Nat) :
    (rhrEntries tab f n).map (entryKey tab) =
      (List.range n).map fun i => some (addressKey tab (logicalAddress i)) := by
  rw [rhrEntries, List.map_map]
  exact List.map_congr_left fun i _ => h.entryKey_regDecodeEntry _ _ _

/-- The addresses of a 0x03 frame are distinct, so its keys are. -/
theorem LegalTable.nodup_entryKey_rhrEntries {tab : RegTable} (h : LegalTable tab) (f : List Byte) (b : Byte) :
    ((rhrEntries tab f (registerCount b)).map (entryKey tab)).Nodup := by
  have hb := registerCount_lt b
  rw [h.map_entryKey_rhrEntries]
  refine List.nodup_range.map_on fun i hi k hk hik => ?_
  have hi := List.mem_range.1 hi
  have hk := List.mem_range.1 hk
  exact logicalAddress_inj (by omega) (by omega) (h.addressKey_inj (Option.some.inj hik))

/-- Every entry of a decoded frame is the entry of some address (R103 to R107). -/
theorem decodeReference_mem {tab : RegTable} {f : List Byte} {es : List Entry} {x : ExcInfo}
    (h : decodeReference tab f = .ok (es, x)) {e : Entry} (he : e ∈ es) :
    ∃ a raw w, e = regDecodeEntry tab a raw w := by
  rcases decodeReference_ok h with rfl | rfl | rfl
  · obtain ⟨i, _, rfl⟩ := List.mem_map.1 he
    exact ⟨_, _, _, rfl⟩
  · exact ⟨_, _, _, List.mem_singleton.1 he⟩
  · cases he

/-! ### A block whose outputs hold NONE (R17, R151) -/

theorem inOutputWindow_frameBufOffset (k : Nat) : inOutputWindow (frameBufOffset k) = true := by
  simp [inOutputWindow, inFrameWindow, frameBufOffset]

theorem inOutputWindow_entryOffset {k w : Nat} (hk : k < entrySlots) (hw : w < 4) :
    inOutputWindow (entryOffset k w) = true := by
  have hk : k < 128 := hk
  have h : 0x1000 ≤ entryOffset k w ∧ entryOffset k w < 0x1800 := by
    unfold entryOffset
    omega
  simp [inOutputWindow, inEntryWindow, h]

theorem whenSome_of_none {x : Option Word} (p : Word → Prop) (h : x = none) : WhenSome x p := by
  rintro v rfl
  cases h

theorem OutputsNone.reservedBitsZero {s : State} (h : OutputsNone s) : ReservedBitsZero s := by
  obtain ⟨hslave, hfunc, hexc, hlen, hcalc, hrecv, hcount, hmem⟩ := h
  exact ⟨whenSome_of_none _ hslave, whenSome_of_none _ hfunc, whenSome_of_none _ hexc, whenSome_of_none _ hlen,
    whenSome_of_none _ hcalc, whenSome_of_none _ hrecv, whenSome_of_none _ hcount,
    fun k => whenSome_of_none _ (hmem _ (inOutputWindow_frameBufOffset k)),
    fun _ hk => whenSome_of_none _ (hmem _ (inOutputWindow_entryOffset hk (by decide))),
    fun _ hk => whenSome_of_none _ (hmem _ (inOutputWindow_entryOffset hk (by decide)))⟩

/-- Both counts hold NONE, so the windows are filled up to 0. -/
theorem OutputsNone.windowsFilled {s : State} (h : OutputsNone s) : WindowsFilled s := by
  obtain ⟨-, -, -, hlen, -, -, hcount, hmem⟩ := h
  have hframes : countOf s.frameLen = 0 := by rw [hlen]; rfl
  have hentries : countOf s.entryCount = 0 := by rw [hcount]; rfl
  refine ⟨by omega, fun k => ?_, fun k w hk hw => ?_⟩
  · rw [hmem _ (inOutputWindow_frameBufOffset k), hframes]
    simp
  · rw [hmem _ (inOutputWindow_entryOffset hk hw), hentries]
    simp

theorem resetWith_outputsNone (p : Params) : OutputsNone (State.resetWith p) :=
  ⟨rfl, rfl, rfl, rfl, rfl, rfl, rfl, fun o _ => Memory.read_empty o⟩

theorem resetWith_memoryMapped (p : Params) : MemoryMapped (State.resetWith p) := by
  intro o ho
  have hnone : (State.resetWith p).mem.read o = none := Memory.read_empty o
  rw [hnone] at ho
  cases ho

theorem resetWith_blockInv {p : Params} (h : legalParams p = true) : BlockInv (State.resetWith p) :=
  have outputs := resetWith_outputsNone p
  ⟨h, Memory.wf_empty, rfl, resetWith_memoryMapped p, outputs.reservedBitsZero, outputs.windowsFilled,
    fun _ _ => outputs⟩

end Sys2Proof.Machine

open Sys2Proof Sys2Proof.Machine

/-- Settles O17: after reset every output holds NONE (R151), and a block without outputs meets the invariant. -/
theorem resetSatisfiesTheBlockInvariant : Obligations.ResetSatisfiesTheBlockInvariant :=
  ⟨fun _ => resetWith_blockInv, resetWith_blockInv Tests.defaultParams_legal⟩

/-- Settles O46: R8 items 1, 3 and 4, by the uniqueness of a legal table's addresses. -/
theorem legalTablesDescribeTheOverrides : Obligations.LegalTablesDescribeTheOverrides := by
  intro tab htab
  have legal := (legalTable_iff tab).1 htab
  refine ⟨fun p hp => ?_, legal.lookup_none_of_not_inCatalogue (by decide),
    legal.lookup_none_of_not_inCatalogue (by decide)⟩
  obtain ⟨d, hd, haddr, hname⟩ := legal.overrides p hp
  obtain ⟨j, hj⟩ := legal.lookup_of_mem hd
  exact ⟨j, d, haddr ▸ hj, (lookup_some hj).1, legal.lookup_lt hj, hname⟩

/-- Settles O59: an entry's key is the key of its address, and distinct addresses have distinct keys. -/
theorem entryKeysAreDistinct : Obligations.EntryKeysAreDistinct := by
  intro tab f es x htab hdec
  have legal := (legalTable_iff tab).1 htab
  constructor
  · rcases decodeReference_ok hdec with rfl | rfl | rfl
    · exact legal.nodup_entryKey_rhrEntries f _
    · exact List.nodup_singleton _
    · exact List.nodup_nil
  · intro e he
    obtain ⟨a, raw, w, rfl⟩ := decodeReference_mem hdec he
    rw [legal.entryKey_regDecodeEntry]
    rfl

end

section
/-! PROOFS about the output words: the fields of an entry's four words and of EXC, the bits the output words leave zero
and the values their fields can take (10_state.md R24 to R30, R74, R111). -/

namespace Sys2Proof.Machine

/-! ### Words and their parts -/

/-- The low `n` bits of a word, widened again, are the word with its other bits cleared. -/
theorem zext32_extractLsb'_zero {n : Nat} (hn : n ≤ 32) (v : Word) :
    zext32 (v.extractLsb' 0 n) = v &&& BitVec.ofNat 32 (2 ^ n - 1) := by
  have hpow : 2 ^ n ≤ 2 ^ 32 := Nat.pow_le_pow_right (by decide) hn
  have hlow : v.toNat % 2 ^ n < 2 ^ n := Nat.mod_lt _ (Nat.two_pow_pos n)
  apply BitVec.eq_of_toNat_eq
  rw [zext32, BitVec.toNat_setWidth, BitVec.extractLsb'_toNat, Nat.shiftRight_zero, BitVec.toNat_and,
    BitVec.toNat_ofNat, Nat.mod_eq_of_lt (a := 2 ^ n - 1) (by omega), Nat.and_two_pow_sub_one_eq_mod,
    Nat.mod_eq_of_lt (by omega)]

/-- Widening a value leaves the bits above it zero. -/
theorem zext32_toNat_lt {n : Nat} (hn : n ≤ 32) (v : BitVec n) : (zext32 v).toNat < 2 ^ n := by
  rw [zext32, BitVec.toNat_setWidth_of_le hn]
  exact v.isLt

@[simp] theorem bit_getElem_zero (b : Bool) : (bit b)[0] = b := by
  cases b <;> rfl

@[simp] theorem slotByte_zext32 (b : Byte) : slotByte (zext32 b) = b := by
  simp [slotByte, zext32]

/-! ### The fields of an entry's words (R30) -/

theorem entryW0_kind (e : Entry) : (entryW0 e).extractLsb' 0 3 = e.kind.code := by
  ext i hi
  simp only [entryW0, zext32, BitVec.getElem_extractLsb', BitVec.getLsbD_setWidth, BitVec.getLsbD_append]
  grind

theorem entryW0_flags (e : Entry) :
    (entryW0 e).getLsbD 3 = e.writeOp ∧ (entryW0 e).getLsbD 4 = e.readOnly ∧
    (entryW0 e).getLsbD 5 = e.waterShortage ∧ (entryW0 e).getLsbD 6 = e.running ∧
    (entryW0 e).getLsbD 7 = false := by
  simp only [entryW0, zext32, BitVec.getLsbD_setWidth, BitVec.getLsbD_append]
  simp

theorem entryW0_textId (e : Entry) : (entryW0 e).extractLsb' 8 8 = e.textId := by
  ext i hi
  simp only [entryW0, zext32, BitVec.getElem_extractLsb', BitVec.getLsbD_setWidth, BitVec.getLsbD_append]
  grind

theorem entryW0_descIndex (e : Entry) : (entryW0 e).extractLsb' 16 8 = e.descIndex := by
  ext i hi
  simp only [entryW0, zext32, BitVec.getElem_extractLsb', BitVec.getLsbD_setWidth, BitVec.getLsbD_append]
  grind

theorem entryW0_top (e : Entry) : (entryW0 e).extractLsb' 24 8 = 0 := by
  ext i hi
  simp [entryW0, zext32]

theorem entryW1_address (e : Entry) : (entryW1 e).extractLsb' 0 16 = e.address := by
  rw [entryW1, BitVec.extractLsb'_append_eq_of_add_le (by decide), BitVec.extractLsb'_eq_self]

theorem entryW1_raw (e : Entry) : (entryW1 e).extractLsb' 16 16 = e.raw := by
  rw [entryW1, BitVec.extractLsb'_append_eq_of_le (by decide), BitVec.extractLsb'_eq_self]

/-- VALUE_MILLI stands in two words, its low 32 bits in word 2. -/
theorem entryW3_append_entryW2 (e : Entry) : (entryW3 e).extractLsb' 0 16 ++ entryW2 e = e.valueMilli := by
  rw [entryW3, zext32, BitVec.extractLsb'_setWidth_of_le (by decide), BitVec.extractLsb'_eq_self, entryW2]
  have hjoin : 32 = 0 + 32 := rfl
  exact (BitVec.extractLsb'_append_extractLsb'_eq_extractLsb' hjoin).trans BitVec.extractLsb'_eq_self

theorem entryW3_toNat_lt (e : Entry) : (entryW3 e).toNat < 2 ^ 16 := zext32_toNat_lt (by decide) _

theorem kindOfCode_code (k : EntryKind) : kindOfCode k.code.toNat = some k := by
  cases k <;> rfl

/-! ### The values an entry's fields take (R30, R74) -/

/-- A TEXT_ID the engine writes: a text of the ROM, or none. -/
def LegalTextId (b : Byte) : Prop := b.toNat ≤ 42 ∨ b = 0xFF

/-- A DESC_INDEX the engine writes: a position of REGTAB, or none. -/
def LegalDescIndex (b : Byte) : Prop := b.toNat < 20 ∨ b = 0xFF

/-- Word 0 of an entry whose text and descriptor exist has the shape of R30. -/
theorem entryW0_shape {e : Entry} (htext : LegalTextId e.textId) (hdesc : LegalDescIndex e.descIndex) :
    EntryW0Shape (entryW0 e) := by
  obtain ⟨-, -, -, -, hreserved⟩ := entryW0_flags e
  rw [EntryW0Shape, entryW0_kind, entryW0_textId, entryW0_descIndex]
  exact ⟨hreserved, entryW0_top e, by cases e.kind <;> decide, htext, hdesc⟩

theorem errTxt_legal (r : Half) : LegalTextId (errTxt r).id := by
  refine .inl ?_
  unfold errTxt
  split
  · simp only [TextRef.id, BitVec.toNat_ofNat]
    omega
  · decide

theorem cmdTxt_legal (r : Half) : LegalTextId (cmdTxt r).id := by
  refine .inl ?_
  unfold cmdTxt
  repeat' split
  all_goals decide

theorem mrTxt_legal (r : Half) : LegalTextId (mrTxt r).id := by
  refine .inl ?_
  unfold mrTxt
  repeat' split
  all_goals simp [TextRef.id]

theorem carrierTxt_legal (r : Half) : LegalTextId (carrierTxt r).id := by
  refine .inl ?_
  unfold carrierTxt
  split <;> decide

theorem noText_legal : LegalTextId noText := .inr rfl

/-- Each variant writes a text of its own table, or leaves `base`'s (R122 to R126). -/
theorem knownEntry_textId_legal {b : Entry} (d : Descriptor) (hb : LegalTextId b.textId) :
    LegalTextId (knownEntry b d).textId := by
  unfold knownEntry
  split
  · exact errTxt_legal _
  split
  · exact hb
  split
  · exact carrierTxt_legal _
  split
  · exact mrTxt_legal _
  split
  · exact cmdTxt_legal _
  · exact hb

theorem regDecodeEntry_textId_legal (tab : RegTable) (a raw : Half) (w : Bool) :
    LegalTextId (regDecodeEntry tab a raw w).textId := by
  unfold regDecodeEntry
  split
  · exact noText_legal
  · exact knownEntry_textId_legal _ noText_legal

theorem LegalTable.regDecodeEntry_descIndex_legal {tab : RegTable} (h : LegalTable tab) (a raw : Half) (w : Bool) :
    LegalDescIndex (regDecodeEntry tab a raw w).descIndex := by
  unfold regDecodeEntry
  split
  · exact .inr rfl
  · rename_i j d hl
    have hj := h.lookup_lt hl
    left
    rw [knownEntry_descIndex]
    simp only [baseEntry, BitVec.toNat_ofNat]
    omega

/-! ### The other output words (R24 to R29) -/

/-- Exception fields the engine collects: without an exception they are those of R26. -/
def LegalExc (x : ExcInfo) : Prop := x.valid = true ∨ x = .none

theorem excWord_fields (x : ExcInfo) :
    (excWord x).getLsbD 0 = x.valid ∧ (excWord x).extractLsb' 1 7 = 0 ∧ (excWord x).extractLsb' 8 8 = x.code ∧
    (excWord x).extractLsb' 16 8 = x.text ∧ (excWord x).extractLsb' 24 8 = 0 := by
  refine ⟨?valid, ?_, ?_, ?_, ?_⟩
  case valid =>
    simp only [excWord, zext32, BitVec.getLsbD_setWidth, BitVec.getLsbD_append]
    simp
  all_goals
    ext i hi
    simp only [excWord, zext32, BitVec.getElem_extractLsb', BitVec.getLsbD_setWidth, BitVec.getLsbD_append]
    grind

theorem excWord_shape {x : ExcInfo} (hx : LegalExc x) : ExcShape (excWord x) := by
  obtain ⟨hvalid, hreserved, hcode, htext, htop⟩ := excWord_fields x
  refine ⟨hreserved, htop, fun hv => ?_⟩
  rw [hvalid] at hv
  rw [hcode, htext]
  rcases hx with hx | rfl
  · exact absurd (hv.symm.trans hx) (by decide)
  · exact ⟨rfl, rfl⟩

theorem lenWord_toNat {f : List Byte} (h : f.length < 2 ^ 16) : (lenWord f).toNat = f.length := by
  rw [lenWord, zext32, BitVec.toNat_setWidth_of_le (by decide), BitVec.toNat_ofNat, Nat.mod_eq_of_lt h]

theorem countWord_toNat {es : List Entry} (h : es.length < 2 ^ 8) : (countWord es).toNat = es.length := by
  rw [countWord, zext32, BitVec.toNat_setWidth_of_le (by decide), BitVec.toNat_ofNat, Nat.mod_eq_of_lt h]

end Sys2Proof.Machine

open Sys2Proof Sys2Proof.Machine

/-- Settles O5: each field stands in its own bits of the four words. -/
theorem entryWordsHoldTheWholeEntry : Obligations.EntryWordsHoldTheWholeEntry := by
  intro e
  obtain ⟨hwrite, hreadOnly, hwater, hrunning, -⟩ := entryW0_flags e
  rw [unpack, entryW0_kind, kindOfCode_code, Option.map_some, hwrite, hreadOnly, hwater, hrunning, entryW0_textId,
    entryW0_descIndex, entryW1_address, entryW1_raw, entryW3_append_entryW2]

end

section
/-! PROOFS about the register map and the host accesses (10_state.md R17 to R23, 20_memory.md R47 to R50). -/

namespace Sys2Proof.Machine

/-! ### The register map (R18) -/

/-- The register file has one register at each of its thirteen offsets. -/
theorem offsetOf_scalarAt_mul : ∀ i < 13, offsetOf (scalarAt (4 * i)) = 4 * i := by decide

theorem scalarAt_of_ge {o : Nat} (h : 0x34 ≤ o) : scalarAt o = .reserved := by
  have hne : ∀ c < 0x34, o ≠ c := by omega
  simp (disch := decide) only [scalarAt, hne, if_false]

theorem offsetOf_scalarAt {o : Nat} (ho : o % 4 = 0) (h : scalarAt o ≠ .reserved) : offsetOf (scalarAt o) = o := by
  have hlt : o < 0x34 := Nat.lt_of_not_le fun hge => h (scalarAt_of_ge hge)
  have hmul := offsetOf_scalarAt_mul (o / 4) (by omega)
  rwa [Nat.mul_div_cancel' (Nat.dvd_of_mod_eq_zero ho)] at hmul

theorem offsetOf_regAt {depth o : Nat} (ho : o % 4 = 0) (h : regAt depth o ≠ .reserved) :
    offsetOf (regAt depth o) = o := by
  unfold regAt at h ⊢
  split_ifs at h ⊢
  · exact offsetOf_scalarAt ho h
  · simp only [offsetOf, entryOffset]
    omega
  · exact absurd rfl h
  · simp only [offsetOf, inBufOffset]
    omega
  · exact absurd rfl h
  · simp only [offsetOf, frameBufOffset]
    omega
  · exact absurd rfl h

theorem regAt_entryOffset {k w : Nat} (depth : Nat) (hk : k < entrySlots) (hw : w < 4) :
    regAt depth (entryOffset k w) = .entry k w := by
  have hk : k < 128 := hk
  unfold entryOffset regAt
  rw [if_neg (by omega), if_pos (by omega)]
  congr 1 <;> omega

theorem regAt_inBufOffset {depth k : Nat} (hd : depth ≤ maxInDepth) (hk : k < depth) :
    regAt depth (inBufOffset k) = .inBuf k := by
  have hd : depth ≤ 1024 := hd
  unfold inBufOffset regAt
  rw [if_neg (by omega), if_neg (by omega), if_neg (by omega), if_pos (by omega), if_pos (by omega)]
  congr 1
  omega

theorem regAt_frameBufOffset {depth k : Nat} (hk : k < depth) : regAt depth (frameBufOffset k) = .frameBuf k := by
  unfold frameBufOffset regAt
  rw [if_neg (by omega), if_neg (by omega), if_neg (by omega), if_neg (by omega), if_pos (by omega)]
  congr 1
  omega

/-- The offsets of the input buffer are those of its `depth` slots. -/
theorem lt_depth_of_regAt_eq_inBuf {depth o k : Nat} (ho : o % 4 = 0) (h : regAt depth o = .inBuf k) : k < depth := by
  have hoff : offsetOf (regAt depth o) = o := offsetOf_regAt ho (by rw [h]; exact RegName.noConfusion)
  rw [h, offsetOf, inBufOffset] at hoff
  subst hoff
  rw [regAt, if_neg (by omega), if_neg (by omega), if_neg (by omega)] at h
  split at h
  · split at h
    · omega
    · cases h
  · split at h <;> cases h

theorem offsetOf_aligned (r : RegName) : offsetOf r % 4 = 0 := by
  cases r with
  | entry k w => simp only [offsetOf, entryOffset]; omega
  | inBuf k => simp only [offsetOf, inBufOffset]; omega
  | frameBuf k => simp only [offsetOf, frameBufOffset]; omega
  | _ => rfl

/-! ### Accesses -/

@[simp] theorem badBusAccess_word (o : BitVec 16) : badBusAccess o 32 = (o.toNat % 4 != 0) := by
  simp [badBusAccess]

/-- A host access that is the next event of a running block is taken from the queue and run (R54). -/
theorem step_access {s : State} {a : BusAccess} {rest : List HostEvent} (h : NextAccess s a rest) :
    step s = busAccess exec a { s with pending := rest } := by
  obtain ⟨hrunning, hpending⟩ := h
  rw [step, takeEvent, hpending]
  simp [hostEvent, hrunning]

/-- A write to CMD runs the command its word selects (R50, R98). -/
theorem busWrite_cmd (run : Instr → State → Result) (v : Word) (s : State) :
    busWrite run 0 32 v s = run (decode s.params.regTable (.cmd v)) s := rfl

/-- A write to an input register stores (R50). -/
theorem busWrite_input {run : Instr → State → Result} {o : BitVec 16} {v : Word} {s : State} {r : RegName}
    (ho : o.toNat % 4 = 0) (hr : regAt s.params.inDepth o.toNat = r) (ha : accessOf r = .readWrite) :
    busWrite run o 32 v s = .next (storeReg s r v) := by
  simp [busWrite, ho, hr, ha]

/-- Only CMD and the reserved offsets cannot be read (R18, R19). -/
theorem accessOf_readable {r : RegName} (hcmd : r ≠ .cmd) (hres : r ≠ .reserved) :
    accessOf r = .readOnly ∨ accessOf r = .readWrite := by
  cases r with
  | cmd => exact absurd rfl hcmd
  | reserved => exact absurd rfl hres
  | inMode | inLen | regAddr | regRaw | inBuf => exact .inr rfl
  | _ => exact .inl rfl

/-- A read of a readable register that holds NONE (R17, R137). -/
theorem busRead_none {o : BitVec 16} {s : State} (ho : o.toNat % 4 = 0)
    (hcmd : regAt s.params.inDepth o.toNat ≠ .cmd) (hres : regAt s.params.inDepth o.toNat ≠ .reserved)
    (hnone : readReg s (regAt s.params.inDepth o.toNat) = none) : busRead o 32 s = .fault .readUnwritten := by
  rcases accessOf_readable hcmd hres with ha | ha <;> simp [busRead, ho, ha, hnone]

end Sys2Proof.Machine

open Sys2Proof Sys2Proof.Machine

/-- Settles O12: `regAt` and `offsetOf` are inverse to each other, window by window. -/
theorem registerMapIsOneToOne : Obligations.RegisterMapIsOneToOne := by
  intro depth hd
  refine ⟨fun r hr hentry hin hframe => ⟨offsetOf_aligned r, ?_⟩, fun o => offsetOf_regAt⟩
  cases r with
  | entry k w =>
    obtain ⟨hk, hw⟩ := hentry k w rfl
    exact regAt_entryOffset depth hk hw
  | inBuf k => exact regAt_inBufOffset hd (hin k rfl)
  | frameBuf k => exact regAt_frameBufOffset (hframe k rfl)
  | reserved => exact absurd rfl hr
  | _ => rfl

/-- Settles O6. -/
theorem stepRunsTheDecodedCommand : Obligations.StepRunsTheDecodedCommand :=
  fun _ v _ h => (step_access h).trans (busWrite_cmd exec v _)

/-- Settles O9. -/
theorem hostReadOfNoneFaults : Obligations.HostReadOfNoneFaults :=
  fun _ _ _ h ho hcmd hres hnone => (step_access h).trans (busRead_none ho hcmd hres hnone)

/-- Settles O10: a write of an input register is `storeReg`; the stored low bits read back widened. -/
theorem hostWriteStoresTheInputRegister : Obligations.HostWriteStoresTheInputRegister := by
  intro s v rest hrunning
  have store {o : BitVec 16} {r : RegName} (ho : o.toNat % 4 = 0) (hr : regAt s.params.inDepth o.toNat = r)
      (ha : accessOf r = .readWrite) :
      step { s with pending := .access (.write o 32 v) :: rest } = .next (storeReg { s with pending := rest } r v) := by
    rw [step_access (s := { s with pending := .access (.write o 32 v) :: rest }) ⟨hrunning, rfl⟩]
    exact busWrite_input (s := { s with pending := rest }) ho hr ha
  refine ⟨⟨store rfl rfl rfl, congrArg some (zext32_extractLsb'_zero (by decide) v)⟩,
    ⟨store rfl rfl rfl, congrArg some (zext32_extractLsb'_zero (by decide) v)⟩,
    ⟨store rfl rfl rfl, congrArg some (zext32_extractLsb'_zero (by decide) v)⟩,
    ⟨store rfl rfl rfl, congrArg some (zext32_extractLsb'_zero (by decide) v)⟩, fun k hk hd => ?_⟩
  have hd' : s.params.inDepth ≤ 1024 := hd
  have hoff : (BitVec.ofNat 16 (0x2000 + 4 * k)).toNat = inBufOffset k := by
    rw [BitVec.toNat_ofNat, Nat.mod_eq_of_lt (by omega), inBufOffset]
  refine ⟨_, store (r := .inBuf k) (by rw [hoff]; exact offsetOf_aligned (.inBuf k))
    (by rw [hoff]; exact regAt_inBufOffset hd hk) rfl, rfl, fun o => Memory.read_write ..⟩

end

section
/-! PROOFS about the stages of the commands and what each command leaves (40_ingress.md R79 to R84, 42_dispatch.md R98
to R110): the ingress stage on an input that holds a frame, the handlers, and the whole next state of each command. -/

namespace Sys2Proof.Machine

/-! ### The ingress stage on an input that holds a frame (R80, R83, R84) -/

theorem hexval_hexChar :
    ∀ n < 16, hexval (BitVec.ofNat 8 (hexUpper n).toNat) = some (BitVec.ofNat 8 n) ∧
      hexval (BitVec.ofNat 8 (hexLower n).toNat) = some (BitVec.ofNat 8 n) := by decide

theorem hexval_of_isHexDigit {c : Byte} {n : Nat} (hn : n < 16) (h : IsHexDigit c n) :
    hexval c = some (BitVec.ofNat 8 n) := by
  obtain ⟨hupper, hlower⟩ := hexval_hexChar n hn
  rcases h with rfl | rfl
  · exact hupper
  · exact hlower

theorem nibbles_join (b : Byte) :
    (BitVec.ofNat 8 (b.toNat / 16) <<< 4) ||| BitVec.ofNat 8 (b.toNat % 16) = b := by
  revert b
  decide

/-- The first byte of spelled bytes is spelled by the first two characters. -/
theorem SpellsBytes.cons {cs bs : List Byte} {b : Byte} (h : SpellsBytes cs (b :: bs)) :
    ∃ hi lo rest, cs = hi :: lo :: rest ∧ IsHexDigit hi (b.toNat / 16) ∧ IsHexDigit lo (b.toNat % 16) ∧
      SpellsBytes rest bs := by
  obtain ⟨hlen, hdigits⟩ := h
  match cs, hlen with
  | hi :: lo :: rest, hlen =>
    obtain ⟨_, _, hhi, hlo, hhigh, hlow⟩ := hdigits 0 b rfl
    cases hhi
    cases hlo
    refine ⟨hi, lo, rest, rfl, hhigh, hlow, ?_, fun k b' hb' => ?_⟩
    · simp only [List.length_cons] at hlen
      omega
    · simpa [Nat.mul_succ] using hdigits (k + 1) b' hb'

/-- Characters that spell bytes are hex digits, and their values pair to the bytes (R82, R83). -/
theorem SpellsBytes.hexvals {cs bs : List Byte} (h : SpellsBytes cs bs) :
    ∃ ds, hexvals cs = some ds ∧ pairDigits ds = bs := by
  induction bs generalizing cs with
  | nil =>
    obtain rfl : cs = [] := List.eq_nil_of_length_eq_zero h.1
    exact ⟨[], rfl, rfl⟩
  | cons b bs ih =>
    obtain ⟨hi, lo, rest, rfl, hhigh, hlow, hrest⟩ := h.cons
    obtain ⟨ds, hds, rfl⟩ := ih hrest
    have hb := b.isLt
    refine ⟨BitVec.ofNat 8 (b.toNat / 16) :: BitVec.ofNat 8 (b.toNat % 16) :: ds, ?_, ?_⟩
    · simp [Machine.hexvals, hexval_of_isHexDigit (by omega) hhigh, hexval_of_isHexDigit (by omega) hlow, hds]
    · rw [pairDigits, nibbles_join]

/-- A byte, widened, is an element in [0,255] (R84). -/
theorem outOfRange_zext32 (b : Byte) : outOfRange (zext32 b) = false := by
  have hlt := zext32_toNat_lt (by decide) b
  have hint : (zext32 b).toInt = (zext32 b).toNat := BitVec.toInt_eq_toNat_of_lt (by omega)
  simp only [outOfRange, hint, Bool.or_eq_false_iff, decide_eq_false_iff_not]
  omega

/-- In each of the three modes the ingress stage of a command fixes the frame the input holds (R79, R86). -/
theorem ingress_beginCommand {s : State} {f : List Byte} (op : CmdOp) (h : HoldsFrame s f) :
    ingress (s.beginCommand op) = .next ((s.beginCommand op).setFrame (.start op) f) := by
  rcases h with hbytes | ⟨hmode, vs, hslots, hspells⟩ | ⟨hmode, hslots⟩
  · exact ingress_beginCommand_bytes op hbytes
  · obtain ⟨ds, hds, rfl⟩ := hspells.hexvals
    have heven : (hexChars vs).length % 2 ≠ 1 := by rw [hspells.1]; omega
    have hrun : ingress (s.beginCommand op) = execInHex (s.beginCommand op) := by
      rw [ingress, beginCommand_inMode, hmode]
      rfl
    rw [hrun, execInHex, withRunning_some _ (beginCommand_engine s op),
      withInputSlots_holds _ (slotsHold_beginCommand op hslots), if_neg heven, hds]
  · have hrange : (f.map zext32).any outOfRange = false := by simp [outOfRange_zext32]
    have hrun : ingress (s.beginCommand op) = execInWords (s.beginCommand op) := by
      rw [ingress, beginCommand_inMode, hmode]
      rfl
    rw [hrun, execInWords, withRunning_some _ (beginCommand_engine s op),
      withInputSlots_holds _ (slotsHold_beginCommand op hslots), hrange]
    simp [Function.comp_def]

/-! ### A command that fails with every output NONE -/

/-- A command ended with STATUS.CODE `c` and no output (R135). -/
def State.failEmpty (s : State) (c : StatusCode) : State := { s.clearOutputs with status := c, engine := none }

/-- A command that has set no output but the checksums, and keeps nothing, fails with every output NONE. -/
theorem failWith_decodeFrame_begun (s : State) (x y : Option Word) (e : Option Working) (c : StatusCode) :
    { s.beginCommand .decodeFrame with crcCalc := x, crcRecv := y, engine := e }.failWith .decodeFrame c =
      s.failEmpty c := by
  rw [failWith_of_ne _ _ _ (by decide)]
  simp [State.failEmpty, State.clearOutputs, State.beginCommand]

/-- A command that fails before it has set an output leaves every output NONE, whatever it would keep. -/
theorem failWith_begun (s : State) (op : CmdOp) (e : Option Working) (c : StatusCode) :
    { s.beginCommand op with engine := e }.failWith op c = s.failEmpty c := by
  by_cases hop : op = .crcCheck
  · subst hop
    have hmem : (s.mem.clear inOutputWindow).clear inEntryWindow = s.mem.clear inOutputWindow :=
      Memory.clear_eq_self _ _ fun o ho => by simp [inOutputWindow, ho]
    simp [failWith_crcCheck, State.failEmpty, State.clearOutputs, State.beginCommand, hmem]
  · rw [failWith_of_ne _ _ _ hop]
    simp [State.failEmpty, State.clearOutputs, State.beginCommand]

/-! ### The handlers (R104 to R107) -/

/-- The stage `r`, run in the running command `w` of `s`, carries out the payload: it ends the command with the
payload's failure, or leaves its entries and exception fields with the engine. -/
def CarriesOut (s : State) (w : Working) (r : Result) : Except StatusCode (List Entry × ExcInfo) → Prop
  | .error c => r = .next (s.failWith w.op c)
  | .ok (es, x) =>
    ∃ w', r = .next (s.setEngine w') ∧ w'.frame = w.frame ∧ w'.op = w.op ∧ w'.entries = w.entries ++ es ∧ w'.exc = x

variable {s : State} {w : Working}

theorem execRhr_carriesOut (h : s.engine = some w) (hl : 3 ≤ w.frame.length) :
    CarriesOut s w (execRhr s)
      (if 1 ≤ registerCount (w.frame.getD 2 0) ∧ w.frame.length < 2 * registerCount (w.frame.getD 2 0) + 3
        then .error .payloadOverrun
        else .ok (rhrEntries s.params.regTable w.frame (registerCount (w.frame.getD 2 0)), .none)) := by
  rw [execRhr, withRunning_some _ h, frameByte_of_lt (by omega), withOperand_some]
  generalize registerCount (w.frame.getD 2 0) = n
  split
  case isTrue hover =>
    obtain ⟨hn, hshort⟩ := hover
    rw [rhrLoop_overrun (setEngine_engine s _) hn (by simp only; omega), failWith_setEngine]
    rfl
  case isFalse hinside =>
    obtain ⟨w', hloop, hframe, hop, -, hexc, hentries⟩ :=
      rhrLoop_inside (n := n) (setEngine_engine s { w with pos := 0, exc := .none }) (by simp only; omega)
    refine ⟨w', hloop, hframe, hop, ?_, hexc⟩
    rw [hentries, rhrEntries]
    simp

theorem execWsr_carriesOut (h : s.engine = some w) :
    CarriesOut s w (execWsr s)
      (if w.frame.length < 6 then .error .payloadOverrun
        else .ok (wsrEntries s.params.regTable w.frame, .none)) := by
  rw [execWsr, withRunning_some _ h]
  split
  case isTrue hshort =>
    by_cases haddr : 3 < w.frame.length
    · rw [frameBE16_of_lt haddr, withOperand_some, frameBE16_of_ge (by omega), withOperand_none]
      exact failCommand_running _ h
    · rw [frameBE16_of_ge (by omega), withOperand_none]
      exact failCommand_running _ h
  case isFalse hlong =>
    rw [frameBE16_of_lt (by omega), withOperand_some, frameBE16_of_lt (by omega), withOperand_some]
    cases hl : lookup s.params.regTable (valueAt w.frame 2) with
    | none => exact ⟨_, rfl, rfl, rfl, by simp [wsrEntries, hl], rfl⟩
    | some d =>
      refine ⟨_, runRegDecode_running _ _ _ (setEngine_engine s _), rfl, rfl, ?_, rfl⟩
      simp [wsrEntries, hl]

theorem execExc_carriesOut (h : s.engine = some w) (hl : 3 ≤ w.frame.length) :
    CarriesOut s w (execExc s)
      (.ok ([], { valid := true, code := w.frame.getD 2 0, text := (excTxt (w.frame.getD 2 0)).id })) := by
  rw [execExc, withRunning_some _ h, frameByte_of_lt (by omega), withOperand_some]
  exact ⟨_, rfl, rfl, rfl, (List.append_nil _).symm, rfl⟩

theorem execOther_carriesOut (fc : Byte) (h : s.engine = some w) :
    CarriesOut s w (execOther fc s) (.ok ([], .none)) := by
  rw [execOther, withRunning_some _ h]
  exact ⟨_, rfl, rfl, rfl, (List.append_nil _).symm, rfl⟩

/-- The router runs the handler of F[1], which carries out the frame's payload (R101, R103). -/
theorem route_carriesOut (h : s.engine = some w) (hl : 4 ≤ w.frame.length) :
    CarriesOut s w (route s) (framePayload s.params.regTable w.frame) := by
  rw [route, withRunning_some _ h, frameByte_of_lt (by omega), withOperand_some, runHandler, framePayload]
  simp only
  split
  · exact execRhr_carriesOut h (by omega)
  split
  · exact execWsr_carriesOut h
  split
  · exact execExc_carriesOut h (by omega)
  · exact execOther_carriesOut _ h

/-! ### DECODE_FRAME (R99) -/

theorem finishDecode_running (h : s.engine = some w) (hl : 2 ≤ w.frame.length) :
    finishDecode s = .next (((s.publishFrame w.frame).publishHeader (w.frame.getD 0 0) (w.frame.getD 1 0)
      w.exc).publishEntries w.entries).endOk := by
  rw [finishDecode, withRunning_some _ h, frameByte_of_lt (by omega), withOperand_some, frameByte_of_lt (by omega),
    withOperand_some]

/-- The state between the checks and the router of a DECODE_FRAME whose frame `f` passed them (R99). -/
def begunWithChecksums (s : State) (f : List Byte) : State :=
  { s.beginCommand .decodeFrame with
    crcCalc := some (zext32 (crcCalc f)), crcRecv := some (zext32 (receivedCrc f)),
    engine := some { Working.start .decodeFrame with frame := f, acc := crcCalc f } }

/-- What is left of a DECODE_FRAME whose frame passed the checks gives the outcome of the frame's payload (R99). -/
theorem route_begunWithChecksums (s : State) {f : List Byte} (hl : 4 ≤ f.length) :
    (route (begunWithChecksums s f)).andThen finishDecode =
      .next (decodeOutcome s f (framePayload s.params.regTable f)) := by
  have hroute : CarriesOut (begunWithChecksums s f) { Working.start .decodeFrame with frame := f, acc := crcCalc f }
      (route (begunWithChecksums s f)) (framePayload s.params.regTable f) := route_carriesOut rfl hl
  cases hpayload : framePayload s.params.regTable f with
  | error c =>
    rw [hpayload, CarriesOut] at hroute
    rw [hroute, andThen_ended _ (failWith_engine _ _ _)]
    exact congrArg _ (failWith_decodeFrame_begun s _ _ _ c)
  | ok r =>
    obtain ⟨es, x⟩ := r
    rw [hpayload] at hroute
    obtain ⟨w', hnext, hframe, -, hentries, rfl⟩ := hroute
    obtain rfl : w'.entries = es := hentries
    obtain rfl : w'.frame = f := hframe
    rw [hnext, andThen_running _ (setEngine_engine _ _),
      finishDecode_running (setEngine_engine _ _) (by omega)]
    rfl

/-- Once the ingress stage has fixed a frame, DECODE_FRAME leaves what the pure decoder gives for it (R99, R140). -/
theorem execDecodeFrame_of_frame {f : List Byte}
    (h : ingress (s.beginCommand .decodeFrame) =
      .next ((s.beginCommand .decodeFrame).setFrame (.start .decodeFrame) f)) :
    execDecodeFrame s = .next (decodeOutcome s f (decodeReference s.params.regTable f)) := by
  have hrunning : ((s.beginCommand .decodeFrame).setFrame (.start .decodeFrame) f).engine =
      some { Working.start .decodeFrame with frame := f } := rfl
  rw [execDecodeFrame, h, andThen_running _ hrunning, lengthTest, withRunning_some _ hrunning, decodeReference]
  simp only
  split
  case isTrue hshort =>
    rw [failCommand_running _ hrunning]
    simp only [andThen_ended _ (failWith_engine _ _ _)]
    exact congrArg _ (failWith_begun s .decodeFrame _ _)
  case isFalse hlong =>
    rw [andThen_running _ hrunning, crcVerify_running hrunning (by simp only; omega)]
    simp only [ne_eq, ite_not]
    split
    case isFalse hcrc =>
      simp only [andThen_ended _ (failWith_engine _ _ _)]
      exact congrArg _ (failWith_decodeFrame_begun s _ _ _ _)
    case isTrue hcrc =>
      rw [andThen_running _ rfl]
      exact route_begunWithChecksums s (Nat.le_of_not_lt hlong)

/-- All that DECODE_FRAME can answer: one of the four input failures, or what the pure decoder gives for the frame the
ingress stage fixed (R79, R99). -/
theorem execDecodeFrame_next {t : State} (h : execDecodeFrame s = .next t) :
    (∃ c ∈ [StatusCode.inputUnsupported, .inputOddLength, .inputBadDigit, .inputRange], t = s.failEmpty c) ∨
    ∃ f, f.length ≤ s.params.inDepth ∧ t = decodeOutcome s f (decodeReference s.params.regTable f) := by
  cases hin : ingress (s.beginCommand .decodeFrame) with
  | fault x => simp [execDecodeFrame, hin] at h
  | refused x => simp [execDecodeFrame, hin] at h
  | next u =>
    rcases ingress_next (beginCommand_engine s _) hin with ⟨f, rfl, hf⟩ | ⟨c, hc, rfl⟩
    · rw [execDecodeFrame_of_frame hin] at h
      cases h
      exact .inr ⟨f, hf, rfl⟩
    · rw [execDecodeFrame, hin] at h
      simp only [andThen_ended _ (failWith_engine _ _ _)] at h
      cases h
      exact .inl ⟨c, hc, failWith_begun s .decodeFrame _ c⟩

/-! ### CRC_CHECK (R108) -/

/-- The state CRC_CHECK leaves that has fixed frame `f` (R93, R108, R135). -/
def crcCheckOutcome (s : State) (f : List Byte) : State :=
  let p := { s.clearOutputs.publishFrame f with engine := none }
  let q := { p with crcCalc := some (zext32 (crcCalc f)), crcRecv := some (zext32 (receivedCrc f)) }
  if f.length < 2 then { p with status := .checksum }
  else if crcCalc f = receivedCrc f then { q with status := .ok }
  else { q with status := .checksum }

/-- A failed CRC_CHECK that has published its frame clears nothing more of memory: ENTRY holds NONE already (R135). -/
theorem clear_entryWindow_publishedFrame (m : Memory) (f : List Byte) :
    ((m.clear inOutputWindow).writeWords (frameBufOffset 0) (frameWords f)).clear inEntryWindow =
      (m.clear inOutputWindow).writeWords (frameBufOffset 0) (frameWords f) := by
  refine Memory.clear_eq_self _ _ fun o ho => ?_
  have hbelow : o < frameBufOffset 0 := by
    simp only [inEntryWindow, Bool.and_eq_true, decide_eq_true_eq] at ho
    unfold frameBufOffset
    omega
  rw [Memory.read_writeWords_below _ _ _ _ hbelow, Memory.read_clear, inOutputWindow, ho]
  rfl

/-- CRC_CHECK that has published its frame fails with its frame and checksums kept (R135). -/
theorem failWith_crcCheck_published (s : State) (f : List Byte) (x y : Option Word) (e : Option Working)
    (c : StatusCode) :
    { (s.beginCommand .crcCheck).publishFrame f with crcCalc := x, crcRecv := y, engine := e }.failWith .crcCheck c =
      { s.clearOutputs.publishFrame f with crcCalc := x, crcRecv := y, status := c, engine := none } := by
  simp [failWith_crcCheck, State.publishFrame, State.beginCommand, State.clearOutputs,
    clear_entryWindow_publishedFrame]

/-- Once the ingress stage has fixed a frame, CRC_CHECK reports it and its checksums (R108). -/
theorem execCrcCheck_of_frame {f : List Byte}
    (h : ingress (s.beginCommand .crcCheck) = .next ((s.beginCommand .crcCheck).setFrame (.start .crcCheck) f)) :
    execCrcCheck s = .next (crcCheckOutcome s f) := by
  have hrunning : ((s.beginCommand .crcCheck).setFrame (.start .crcCheck) f).engine =
      some { Working.start .crcCheck with frame := f } := rfl
  have hpublished : (((s.beginCommand .crcCheck).setFrame (.start .crcCheck) f).publishFrame f).engine =
      some { Working.start .crcCheck with frame := f } := rfl
  rw [execCrcCheck, h, andThen_running _ hrunning, publishRunningFrame, withRunning_some _ hrunning,
    andThen_running _ hpublished, crcCheckOutcome]
  simp only
  split
  case isTrue hshort =>
    rw [crcVerify_short hpublished hshort, andThen_ended _ (failWith_engine _ _ _)]
    exact congrArg _ (failWith_crcCheck_published s f _ _ _ _)
  case isFalse hlong =>
    rw [crcVerify_running hpublished (Nat.le_of_not_lt hlong)]
    simp only
    split
    case isTrue hcrc =>
      rw [andThen_running _ rfl]
      rfl
    case isFalse hcrc =>
      rw [andThen_ended _ (failWith_engine _ _ _)]
      exact congrArg _ (failWith_crcCheck_published s f _ _ _ _)

theorem execCrcCheck_next {t : State} (h : execCrcCheck s = .next t) :
    (∃ c ∈ [StatusCode.inputUnsupported, .inputOddLength, .inputBadDigit, .inputRange], t = s.failEmpty c) ∨
    ∃ f, f.length ≤ s.params.inDepth ∧ t = crcCheckOutcome s f := by
  cases hin : ingress (s.beginCommand .crcCheck) with
  | fault x => simp [execCrcCheck, hin] at h
  | refused x => simp [execCrcCheck, hin] at h
  | next u =>
    rcases ingress_next (beginCommand_engine s _) hin with ⟨f, rfl, hf⟩ | ⟨c, hc, rfl⟩
    · rw [execCrcCheck_of_frame hin] at h
      cases h
      exact .inr ⟨f, hf, rfl⟩
    · rw [execCrcCheck, hin] at h
      simp only [andThen_ended _ (failWith_engine _ _ _)] at h
      cases h
      exact .inl ⟨c, hc, failWith_begun s .crcCheck _ c⟩

/-! ### REG_DECODE and CMD_RESERVED (R109, R110) -/

/-- REG_DECODE leaves the one entry of its operands (R109). -/
theorem execRegDecode_of_operands {a raw : Half} (ha : s.regAddr = some a) (hraw : s.regRaw = some raw) :
    execRegDecode s =
      .next (s.clearOutputs.publishEntries [regDecodeEntry s.params.regTable a raw false]).endOk := by
  rw [execRegDecode, ha, hraw]
  simp only
  rw [runRegDecode_running _ _ _ (beginCommand_engine s _), andThen_running _ rfl, finishRegDecode,
    withRunning_some _ rfl]
  rfl

/-- All that REG_DECODE can answer. -/
theorem execRegDecode_next {t : State} (h : execRegDecode s = .next t) :
    ∃ a raw, t = (s.clearOutputs.publishEntries [regDecodeEntry s.params.regTable a raw false]).endOk := by
  cases ha : s.regAddr with
  | none => simp [execRegDecode, ha] at h
  | some a =>
    cases hraw : s.regRaw with
    | none => simp [execRegDecode, ha, hraw] at h
    | some raw =>
      rw [execRegDecode_of_operands ha hraw] at h
      cases h
      exact ⟨a, raw, rfl⟩

theorem execCmdReserved_eq (s : State) : execCmdReserved s = .next (s.failEmpty .badCommand) :=
  (failCommand_running _ (beginCommand_engine s _)).trans (congrArg _ (failWith_begun s .reserved _ _))

end Sys2Proof.Machine
end

section
/-! PROOFS about the output windows and the step (10_state.md R27, R29, R32, 42_dispatch.md R98, R111): what the windows
read as after a command, all that a command can leave, and all that a step can leave. -/

namespace Sys2Proof.Machine

/-! ### The words of a window -/

theorem entryWords_cons (e : Entry) (es : List Entry) : entryWords (e :: es) = pack e ++ entryWords es := rfl

theorem entryWords_length (es : List Entry) : (entryWords es).length = 4 * es.length := by
  induction es with
  | nil => rfl
  | cons e es ih =>
    rw [entryWords_cons, List.length_append, ih, List.length_cons, pack]
    simp only [List.length_cons, List.length_nil]
    omega

/-- ENTRY[k] is the packed entry `k` (R111). -/
theorem entryWords_getElem? (es : List Entry) (k : Nat) {w : Nat} (hw : w < 4) :
    (entryWords es)[4 * k + w]? = (es[k]?).bind fun e => (pack e)[w]? := by
  induction es generalizing k with
  | nil => rfl
  | cons e es ih =>
    rw [entryWords_cons]
    cases k with
    | zero =>
      rw [List.getElem?_append_left (by simp only [pack, List.length_cons, List.length_nil]; omega)]
      simp
    | succ k =>
      rw [List.getElem?_append_right (by simp only [pack, List.length_cons, List.length_nil]; omega),
        List.getElem?_cons_succ, ← ih k]
      congr 1
      simp only [pack, List.length_cons, List.length_nil]
      omega

/-- Words written over cells that hold NONE are all that reads there. -/
theorem Memory.read_writeWords_of_none {m : Memory} {o k : Nat} (ws : List Word) (h : m.read (o + 4 * k) = none) :
    (m.writeWords o ws).read (o + 4 * k) = ws[k]? := by
  rw [Memory.read_writeWords, h]
  split
  case isTrue hk => rw [List.getElem?_eq_getElem hk]
  case isFalse hk => rw [List.getElem?_eq_none (by omega)]

/-- A cell that holds a value after consecutive writes held one before, or was written. -/
theorem Memory.isSome_read_writeWords {m : Memory} {o p : Nat} {ws : List Word}
    (h : ((m.writeWords o ws).read p).isSome = true) :
    (m.read p).isSome = true ∨ ∃ k < ws.length, p = o + 4 * k := by
  by_cases hp : ∃ k < ws.length, p = o + 4 * k
  · exact .inr hp
  · rw [Memory.read_writeWords_other _ _ _ _ fun k hk heq => hp ⟨k, hk, heq⟩] at h
    exact .inl h

/-! ### The memory a command leaves (R98, R99, R108, R109) -/

/-- Memory after a command: the windows FRAME_BUF and ENTRY hold the frame `f` and the entries `es` alone. -/
def outputMemory (m : Memory) (f : List Byte) (es : List Entry) : Memory :=
  ((m.clear inOutputWindow).writeWords (frameBufOffset 0) (frameWords f)).writeWords (entryOffset 0 0) (entryWords es)

theorem outputMemory_wf {m : Memory} (f : List Byte) (es : List Entry) (h : m.wf = true) :
    (outputMemory m f es).wf = true :=
  Memory.wf_writeWords _ _ _ (Memory.wf_writeWords _ _ _ (Memory.wf_clear _ _ h))

/-- FRAME_BUF holds the frame, and NONE above it (R27). The entries end below it. -/
theorem read_outputMemory_frameBuf (m : Memory) (f : List Byte) {es : List Entry} (hes : es.length < entrySlots)
    (k : Nat) : (outputMemory m f es).read (frameBufOffset k) = (f[k]?).map zext32 := by
  have hes : es.length < 128 := hes
  have hnone : (m.clear inOutputWindow).read (frameBufOffset 0 + 4 * k) = none :=
    (Memory.read_clear _ _ _).trans (if_pos (inOutputWindow_frameBufOffset k))
  rw [outputMemory, Memory.read_writeWords_other]
  · exact (Memory.read_writeWords_of_none _ hnone).trans (by rw [frameWords, List.getElem?_map])
  · rw [entryWords_length]
    unfold frameBufOffset entryOffset
    omega

/-- ENTRY holds the packed entries, and NONE above them (R29). -/
theorem read_outputMemory_entry (m : Memory) (f : List Byte) (es : List Entry) {k w : Nat} (hk : k < entrySlots)
    (hw : w < 4) : (outputMemory m f es).read (entryOffset k w) = (es[k]?).bind fun e => (pack e)[w]? := by
  have hk' : k < 128 := hk
  have hoff : entryOffset k w = entryOffset 0 0 + 4 * (4 * k + w) := by
    unfold entryOffset
    omega
  have hbelow : entryOffset k w < frameBufOffset 0 := by
    unfold frameBufOffset entryOffset
    omega
  have hnone : ((m.clear inOutputWindow).writeWords (frameBufOffset 0) (frameWords f)).read (entryOffset k w) =
      none := by
    rw [Memory.read_writeWords_below _ _ _ _ hbelow, Memory.read_clear, if_pos (inOutputWindow_entryOffset hk hw)]
  rw [hoff] at hnone ⊢
  rw [outputMemory, Memory.read_writeWords_of_none _ hnone, entryWords_getElem? es k hw]

/-- A cell that holds a value after a command is no output that held it before, or a slot of the frame or of an
entry. -/
theorem isSome_read_outputMemory {m : Memory} {f : List Byte} {es : List Entry} {o : Nat}
    (h : ((outputMemory m f es).read o).isSome = true) :
    (m.read o).isSome = true ∨ (∃ k < f.length, o = frameBufOffset 0 + 4 * k) ∨
      ∃ k < 4 * es.length, o = entryOffset 0 0 + 4 * k := by
  rcases Memory.isSome_read_writeWords h with h | ⟨k, hk, rfl⟩
  · rcases Memory.isSome_read_writeWords h with h | ⟨k, hk, rfl⟩
    · left
      rw [Memory.read_clear] at h
      split at h
      · cases h
      · exact h
    · exact .inr (.inl ⟨k, by simpa [frameWords] using hk, rfl⟩)
  · exact .inr (.inr ⟨k, by rwa [entryWords_length] at hk, rfl⟩)

/-! ### What a command leaves -/

/-- What every command leaves, with the frame `f` and the entries `es` it publishes (R98, R135): no running command,
memory with them alone in the output windows, counts that match, and header words of the engine's own making. -/
structure CommandLeaves (s t : State) (f : List Byte) (es : List Entry) : Prop where
  params_eq : t.params = s.params
  engine_eq : t.engine = none
  mem_eq : t.mem = outputMemory s.mem f es
  frameLen_eq : t.frameLen = some (lenWord f) ∨ t.frameLen = none ∧ f = []
  entryCount_eq : t.entryCount = some (countWord es) ∨ t.entryCount = none ∧ es = []
  frame_fits : f.length ≤ s.params.inDepth
  entries_fit : es.length < entrySlots
  entries_decoded : ∀ e ∈ es, ∃ a raw w, e = regDecodeEntry s.params.regTable a raw w
  slaveAddr_shape : t.slaveAddr = none ∨ ∃ b, t.slaveAddr = some (slaveWord b)
  func_shape : t.func = none ∨ ∃ b, t.func = some (funcWord b)
  exc_shape : t.exc = none ∨ ∃ x : { x : ExcInfo // LegalExc x }, t.exc = some (excWord x)
  crcCalc_shape : t.crcCalc = none ∨ ∃ c : Half, t.crcCalc = some (zext32 c)
  crcRecv_shape : t.crcRecv = none ∨ ∃ c : Half, t.crcRecv = some (zext32 c)
  explained : OutputsExplained t

theorem failEmpty_outputsNone (s : State) (c : StatusCode) : OutputsNone (s.failEmpty c) :=
  ⟨rfl, rfl, rfl, rfl, rfl, rfl, rfl, fun o ho => (Memory.read_clear _ _ o).trans (if_pos ho)⟩

theorem commandLeaves_failEmpty (s : State) (c : StatusCode) : CommandLeaves s (s.failEmpty c) [] [] where
  params_eq := rfl
  engine_eq := rfl
  mem_eq := rfl
  frameLen_eq := .inr ⟨rfl, rfl⟩
  entryCount_eq := .inr ⟨rfl, rfl⟩
  frame_fits := Nat.zero_le _
  entries_fit := by decide
  entries_decoded := by simp
  slaveAddr_shape := .inl rfl
  func_shape := .inl rfl
  exc_shape := .inl rfl
  crcCalc_shape := .inl rfl
  crcRecv_shape := .inl rfl
  explained _ _ := failEmpty_outputsNone s c

theorem framePayload_legalExc {tab : RegTable} {f : List Byte} {es : List Entry} {x : ExcInfo}
    (h : framePayload tab f = .ok (es, x)) : LegalExc x := by
  unfold framePayload at h
  simp only at h
  split at h
  · split at h <;> cases h
    exact .inr rfl
  split at h
  · split at h <;> cases h
    exact .inr rfl
  split at h <;> cases h
  · exact .inl rfl
  · exact .inr rfl

theorem decodeReference_legalExc {tab : RegTable} {f : List Byte} {es : List Entry} {x : ExcInfo}
    (h : decodeReference tab f = .ok (es, x)) : LegalExc x := by
  unfold decodeReference at h
  split at h
  · cases h
  split at h
  · cases h
  · exact framePayload_legalExc h

/-- A frame carries at most 127 entries (R114). -/
theorem decodeReference_length_lt {tab : RegTable} {f : List Byte} {es : List Entry} {x : ExcInfo}
    (h : decodeReference tab f = .ok (es, x)) : es.length < entrySlots := by
  rcases decodeReference_ok h with rfl | rfl | rfl
  · rw [rhrEntries, List.length_map, List.length_range]
    exact registerCount_lt _
  · rw [List.length_singleton]
    decide
  · decide

theorem commandLeaves_decoded {s : State} {f : List Byte} {es : List Entry} {x : ExcInfo}
    (hf : f.length ≤ s.params.inDepth) (h : decodeReference s.params.regTable f = .ok (es, x)) :
    CommandLeaves s (decodeOutcome s f (.ok (es, x))) f es where
  params_eq := rfl
  engine_eq := rfl
  mem_eq := rfl
  frameLen_eq := .inl rfl
  entryCount_eq := .inl rfl
  frame_fits := hf
  entries_fit := decodeReference_length_lt h
  entries_decoded _ he := decodeReference_mem h he
  slaveAddr_shape := .inr ⟨_, rfl⟩
  func_shape := .inr ⟨_, rfl⟩
  exc_shape := .inr ⟨⟨x, decodeReference_legalExc h⟩, rfl⟩
  crcCalc_shape := .inr ⟨_, rfl⟩
  crcRecv_shape := .inr ⟨_, rfl⟩
  explained hok _ := absurd rfl hok

/-- A CRC_CHECK that has published its frame leaves no entry and no header (R108). -/
theorem commandLeaves_framePublished {s : State} {f : List Byte} {x y : Option Word} {c : StatusCode}
    (hf : f.length ≤ s.params.inDepth) (hx : x = none ∨ ∃ v : Half, x = some (zext32 v))
    (hy : y = none ∨ ∃ v : Half, y = some (zext32 v)) (hc : c = .ok ∨ c = .checksum) :
    CommandLeaves s { s.clearOutputs.publishFrame f with crcCalc := x, crcRecv := y, status := c, engine := none }
      f [] where
  params_eq := rfl
  engine_eq := rfl
  mem_eq := rfl
  frameLen_eq := .inl rfl
  entryCount_eq := .inr ⟨rfl, rfl⟩
  frame_fits := hf
  entries_fit := by decide
  entries_decoded := by simp
  slaveAddr_shape := .inl rfl
  func_shape := .inl rfl
  exc_shape := .inl rfl
  crcCalc_shape := hx
  crcRecv_shape := hy
  explained hok hsum := (hc.elim hok hsum).elim

theorem commandLeaves_crcChecked {s : State} {f : List Byte} (hf : f.length ≤ s.params.inDepth) :
    CommandLeaves s (crcCheckOutcome s f) f [] := by
  unfold crcCheckOutcome
  simp only
  split
  · exact commandLeaves_framePublished hf (.inl rfl) (.inl rfl) (.inr rfl)
  split
  · exact commandLeaves_framePublished hf (.inr ⟨_, rfl⟩) (.inr ⟨_, rfl⟩) (.inl rfl)
  · exact commandLeaves_framePublished hf (.inr ⟨_, rfl⟩) (.inr ⟨_, rfl⟩) (.inr rfl)

theorem commandLeaves_registerDecoded (s : State) (a raw : Half) :
    CommandLeaves s (s.clearOutputs.publishEntries [regDecodeEntry s.params.regTable a raw false]).endOk []
      [regDecodeEntry s.params.regTable a raw false] where
  params_eq := rfl
  engine_eq := rfl
  mem_eq := rfl
  frameLen_eq := .inr ⟨rfl, rfl⟩
  entryCount_eq := .inl rfl
  frame_fits := Nat.zero_le _
  entries_fit := by rw [List.length_singleton]; decide
  entries_decoded e he := ⟨a, raw, false, List.mem_singleton.1 he⟩
  slaveAddr_shape := .inl rfl
  func_shape := .inl rfl
  exc_shape := .inl rfl
  crcCalc_shape := .inl rfl
  crcRecv_shape := .inl rfl
  explained hok _ := absurd rfl hok

/-- A word written to CMD selects one of the four commands (R59). -/
theorem decodeCmd_cases (v : Word) :
    decodeCmd v = .decodeFrame ∨ decodeCmd v = .crcCheck ∨ decodeCmd v = .regDecode ∨ decodeCmd v = .cmdReserved := by
  unfold decodeCmd
  split <;> simp

/-- All that a command can leave (R98). -/
theorem exec_decodeCmd_next {v : Word} {s t : State} (h : exec (decodeCmd v) s = .next t) :
    ∃ f es, CommandLeaves s t f es := by
  rcases decodeCmd_cases v with hv | hv | hv | hv <;> rw [hv] at h
  · rcases execDecodeFrame_next h with ⟨c, -, rfl⟩ | ⟨f, hf, rfl⟩
    · exact ⟨_, _, commandLeaves_failEmpty s c⟩
    · cases hdec : decodeReference s.params.regTable f with
      | error c => exact ⟨_, _, commandLeaves_failEmpty s c⟩
      | ok r => exact ⟨_, _, commandLeaves_decoded hf hdec⟩
  · rcases execCrcCheck_next h with ⟨c, -, rfl⟩ | ⟨f, hf, rfl⟩
    · exact ⟨_, _, commandLeaves_failEmpty s c⟩
    · exact ⟨_, _, commandLeaves_crcChecked hf⟩
  · obtain ⟨a, raw, rfl⟩ := execRegDecode_next h
    exact ⟨_, _, commandLeaves_registerDecoded s a raw⟩
  · cases (execCmdReserved_eq s).symm.trans h
    exact ⟨_, _, commandLeaves_failEmpty s _⟩

/-! ### What a step leaves -/

/-- What a step can leave: an event is taken, and it changed the reset line, the read log or an input register, reset
the block, or ran a command. -/
inductive StepLeaves (s : State) : State → Prop where
  | idle : StepLeaves s s
  | assertReset (rest : List HostEvent) : StepLeaves s { s with pending := rest, resetHeld := true }
  | releaseRunning (rest : List HostEvent) : StepLeaves s { s with pending := rest }
  | releaseReset (rest : List HostEvent) : StepLeaves s { s with pending := rest }.releaseReset
  | read (rest : List HostEvent) (v : Word) : StepLeaves s { s with pending := rest, readLog := v :: s.readLog }
  | store (rest : List HostEvent) (r : RegName) (v : Word) (hr : ∀ k, r = .inBuf k → k < s.params.inDepth) :
      StepLeaves s (storeReg { s with pending := rest } r v)
  | command (rest : List HostEvent) (t : State) (f : List Byte) (es : List Entry)
      (ht : CommandLeaves { s with pending := rest } t f es) : StepLeaves s t

theorem aligned_of_badBusAccess_eq_false {o : BitVec 16} {width : Nat} (h : badBusAccess o width = false) :
    o.toNat % 4 = 0 := by
  simp only [badBusAccess, Bool.or_eq_false_iff, bne_eq_false_iff_eq] at h
  exact h.2

/-- All that a step can leave, from any state. -/
theorem step_leaves {s t : State} (h : step s = .next t) : StepLeaves s t := by
  rcases step_next h with ⟨-, rfl⟩ | ⟨e, rest, -, hevent⟩
  · exact .idle
  rcases hostEvent_next hevent with ⟨-, rfl⟩ | ⟨-, rfl⟩ | ⟨a, -, -, hbus⟩
  · exact .assertReset rest
  · split
    · exact .releaseReset rest
    · exact .releaseRunning rest
  cases a with
  | read o width =>
    obtain ⟨-, v, -, rfl⟩ := busRead_next hbus
    exact .read rest v
  | write o width v =>
    obtain ⟨hbad, ⟨-, hrun⟩ | ⟨-, rfl⟩⟩ := busWrite_next hbus
    · obtain ⟨f, es, ht⟩ := exec_decodeCmd_next hrun
      exact .command rest t f es ht
    · exact .store rest _ v fun k hk => lt_depth_of_regAt_eq_inBuf (aligned_of_badBusAccess_eq_false hbad) hk

theorem storeReg_params (s : State) (r : RegName) (v : Word) : (storeReg s r v).params = s.params := by
  cases r <;> rfl

/-- No step changes the parameters (R32, R152). -/
theorem StepLeaves.params_eq {s t : State} (h : StepLeaves s t) : t.params = s.params := by
  cases h with
  | store => exact storeReg_params _ _ _
  | command rest t f es ht => exact ht.params_eq
  | _ => rfl

end Sys2Proof.Machine

open Sys2Proof Sys2Proof.Machine

/-- Settles O19. -/
theorem stepNeverChangesTheParameters : Obligations.StepNeverChangesTheParameters :=
  fun _ _ h => (step_leaves h).params_eq

/-- Settles O51: what the two windows read as in the memory a command leaves. -/
theorem decodeFrameWindowsReadBack : Obligations.DecodeFrameWindowsReadBack := by
  intro s t f es x hf hdec ht
  have houtcome : execDecodeFrame s = .next (decodeOutcome s f (.ok (es, x))) := by
    rw [execDecodeFrame_of_frame (ingress_beginCommand .decodeFrame hf), hdec]
  cases houtcome.symm.trans ht
  exact ⟨fun k => read_outputMemory_frameBuf s.mem f (decodeReference_length_lt hdec) k,
    fun k w hk hw => read_outputMemory_entry s.mem f es hk hw⟩

end

section
/-! PROOFS about the invariant of the block (10_state.md R17 to R30, 30_encoding.md R74, 40_ingress.md R87,
60_exceptions.md R135): a command establishes it from what it leaves, every other step keeps the outputs. -/

namespace Sys2Proof.Machine

/-! ### Cells -/

/-- A cell that holds NONE or one of the words `g` makes, all of which satisfy `p`. -/
theorem whenSome_of_none_or {α : Type} {x : Option Word} {g : α → Word} {p : Word → Prop}
    (hx : x = none ∨ ∃ a, x = some (g a)) (hp : ∀ a, p (g a)) : WhenSome x p := by
  rintro v rfl
  obtain ⟨a, ha⟩ := hx.resolve_left (Option.some_ne_none v)
  cases ha
  exact hp a

/-- A count that was written as `v`, or holds NONE. -/
theorem whenSome_of_eq_or {x : Option Word} {v : Word} {q : Prop} {p : Word → Prop}
    (hx : x = some v ∨ x = none ∧ q) (hp : p v) : WhenSome x p := by
  rcases hx with rfl | ⟨rfl, -⟩
  · intro u hu
    cases hu
    exact hp
  · exact whenSome_of_none p rfl

theorem legalParams_iff (p : Params) :
    legalParams p = true ↔ (1 ≤ p.inDepth ∧ p.inDepth ≤ maxInDepth) ∧ LegalTable p.regTable := by
  rw [← legalTable_iff]
  simp only [legalParams, Bool.and_eq_true, decide_eq_true_eq]

/-! ### What a command leaves meets the invariant -/

variable {s t : State} {f : List Byte} {es : List Entry}

theorem CommandLeaves.countOf_frameLen (h : CommandLeaves s t f es) (hdepth : s.params.inDepth ≤ maxInDepth) :
    countOf t.frameLen = f.length := by
  have hdepth : s.params.inDepth ≤ 1024 := hdepth
  have hfits := h.frame_fits
  rcases h.frameLen_eq with hlen | ⟨hlen, rfl⟩ <;> rw [hlen]
  · exact lenWord_toNat (by omega)
  · rfl

theorem CommandLeaves.countOf_entryCount (h : CommandLeaves s t f es) : countOf t.entryCount = es.length := by
  have hfits : es.length < 128 := h.entries_fit
  rcases h.entryCount_eq with hcount | ⟨hcount, rfl⟩ <;> rw [hcount]
  · exact countWord_toNat (by omega)
  · rfl

theorem CommandLeaves.read_frameBuf (h : CommandLeaves s t f es) (k : Nat) :
    t.mem.read (frameBufOffset k) = (f[k]?).map zext32 := by
  rw [h.mem_eq, read_outputMemory_frameBuf _ _ h.entries_fit]

theorem CommandLeaves.read_entry (h : CommandLeaves s t f es) {k w : Nat} (hk : k < entrySlots) (hw : w < 4) :
    t.mem.read (entryOffset k w) = (es[k]?).bind fun e => (pack e)[w]? := by
  rw [h.mem_eq, read_outputMemory_entry _ _ _ hk hw]

/-- The windows are filled exactly up to their counts (R27, R29). -/
theorem CommandLeaves.windowsFilled (h : CommandLeaves s t f es) (hdepth : s.params.inDepth ≤ maxInDepth) :
    WindowsFilled t := by
  refine ⟨?_, fun k => ?_, fun k w hk hw => ?_⟩
  · rw [h.countOf_frameLen hdepth, h.params_eq]
    exact h.frame_fits
  · rw [h.countOf_frameLen hdepth, h.read_frameBuf, Option.isSome_map, Bool.eq_iff_iff]
    simp
  · rw [h.countOf_entryCount, h.read_entry hk hw]
    by_cases hlt : k < es.length
    · have hword : w < (pack es[k]).length := hw
      simp [hlt, hword]
    · simp [hlt]

/-- Every cell a command leaves is a register of the map (R18). -/
theorem CommandLeaves.memoryMapped (h : CommandLeaves s t f es) (hs : MemoryMapped s) : MemoryMapped t := by
  intro o ho
  have hframe := h.frame_fits
  have hentries : es.length < 128 := h.entries_fit
  rw [h.mem_eq] at ho
  rw [h.params_eq]
  rcases isSome_read_outputMemory ho with ho | ⟨k, hk, rfl⟩ | ⟨k, hk, rfl⟩
  · exact hs o ho
  · unfold frameBufOffset
    omega
  · unfold entryOffset
    omega

/-- The reserved bits of what a command leaves are zero, and its fields hold values the engine writes (R24 to R30,
R74). -/
theorem CommandLeaves.reservedBitsZero (h : CommandLeaves s t f es) (legal : LegalTable s.params.regTable) :
    ReservedBitsZero t := by
  have hentries : es.length < 128 := h.entries_fit
  refine ⟨whenSome_of_none_or h.slaveAddr_shape fun b => zext32_toNat_lt (by decide) _,
    whenSome_of_none_or h.func_shape fun b => zext32_toNat_lt (by decide) _,
    whenSome_of_none_or h.exc_shape fun x => excWord_shape x.2,
    whenSome_of_eq_or h.frameLen_eq (zext32_toNat_lt (by decide) _),
    whenSome_of_none_or h.crcCalc_shape fun c => zext32_toNat_lt (by decide) _,
    whenSome_of_none_or h.crcRecv_shape fun c => zext32_toNat_lt (by decide) _,
    whenSome_of_eq_or h.entryCount_eq ?entryCount, fun k v hv => ?frameBuf, fun k hk v hv => ?word0,
    fun k hk v hv => ?word3⟩
  case entryCount =>
    rw [countWord_toNat (by omega)]
    omega
  case frameBuf =>
    rw [h.read_frameBuf] at hv
    obtain ⟨b, -, rfl⟩ := Option.map_eq_some_iff.1 hv
    exact zext32_toNat_lt (by decide) b
  case word0 =>
    rw [h.read_entry hk (by decide)] at hv
    obtain ⟨e, he, hword⟩ := Option.bind_eq_some_iff.1 hv
    obtain rfl : entryW0 e = v := Option.some.inj hword
    obtain ⟨a, raw, w, rfl⟩ := h.entries_decoded e (List.mem_of_getElem? he)
    exact entryW0_shape (regDecodeEntry_textId_legal _ a raw w) (legal.regDecodeEntry_descIndex_legal a raw w)
  case word3 =>
    rw [h.read_entry hk (by decide)] at hv
    obtain ⟨e, -, hword⟩ := Option.bind_eq_some_iff.1 hv
    obtain rfl : entryW3 e = v := Option.some.inj hword
    exact entryW3_toNat_lt e

theorem CommandLeaves.blockInv (h : CommandLeaves s t f es) (hs : BlockInv s) : BlockInv t := by
  obtain ⟨hlegal, hwf, -, hmapped, -, -, -⟩ := hs
  obtain ⟨⟨-, hdepth⟩, htable⟩ := (legalParams_iff _).1 hlegal
  exact ⟨h.params_eq ▸ hlegal, h.mem_eq ▸ outputMemory_wf f es hwf, h.engine_eq, h.memoryMapped hmapped,
    h.reservedBitsZero htable, h.windowsFilled hdepth, h.explained⟩

/-! ### A store keeps the outputs -/

/-- The input buffer lies outside the output windows (R18). -/
theorem inOutputWindow_inBufOffset {k : Nat} (hk : k < maxInDepth) : inOutputWindow (inBufOffset k) = false := by
  have hk : k < 1024 := hk
  have h : ¬ inBufOffset k < 0x1800 ∧ ¬ 0x4000 ≤ inBufOffset k := by
    unfold inBufOffset
    omega
  simp [inOutputWindow, inEntryWindow, inFrameWindow, h]

/-- A write of an input slot leaves every output cell as it was. -/
theorem read_write_inBuf_of_output {k o : Nat} (m : Memory) (v : Word) (hk : k < maxInDepth)
    (ho : inOutputWindow o = true) : (m.write (inBufOffset k) v).read o = m.read o := by
  refine Memory.read_write_other _ _ _ _ ?_
  rintro rfl
  exact Bool.false_ne_true ((inOutputWindow_inBufOffset hk).symm.trans ho)

theorem SameOutputs.reservedBitsZero (h : SameOutputs s t) (hs : ReservedBitsZero s) : ReservedBitsZero t := by
  obtain ⟨-, hslave, hfunc, hexc, hlen, hcalc, hrecv, hcount, hmem⟩ := h
  obtain ⟨sslave, sfunc, sexc, slen, scalc, srecv, scount, hframe, hword0, hword3⟩ := hs
  exact ⟨hslave ▸ sslave, hfunc ▸ sfunc, hexc ▸ sexc, hlen ▸ slen, hcalc ▸ scalc, hrecv ▸ srecv, hcount ▸ scount,
    fun k => hmem _ (inOutputWindow_frameBufOffset k) ▸ hframe k,
    fun k hk => hmem _ (inOutputWindow_entryOffset (w := 0) hk (by decide)) ▸ hword0 k hk,
    fun k hk => hmem _ (inOutputWindow_entryOffset (w := 3) hk (by decide)) ▸ hword3 k hk⟩

theorem SameOutputs.windowsFilled (h : SameOutputs s t) (hp : s.params = t.params) (hs : WindowsFilled s) :
    WindowsFilled t := by
  obtain ⟨-, -, -, -, hlen, -, -, hcount, hmem⟩ := h
  obtain ⟨hfits, hframe, hentry⟩ := hs
  rw [hlen, hp] at hfits
  refine ⟨hfits, fun k => ?_, fun k w hk hw => ?_⟩
  · rw [← hmem _ (inOutputWindow_frameBufOffset k), ← hlen, hframe]
  · rw [← hmem _ (inOutputWindow_entryOffset hk hw), ← hcount, hentry k w hk hw]

theorem SameOutputs.outputsExplained (h : SameOutputs s t) (hs : OutputsExplained s) : OutputsExplained t := by
  obtain ⟨hstatus, hslave, hfunc, hexc, hlen, hcalc, hrecv, hcount, hmem⟩ := h
  intro hok hsum
  obtain ⟨sslave, sfunc, sexc, slen, scalc, srecv, scount, hnone⟩ := hs (hstatus ▸ hok) (hstatus ▸ hsum)
  exact ⟨hslave ▸ sslave, hfunc ▸ sfunc, hexc ▸ sexc, hlen ▸ slen, hcalc ▸ scalc, hrecv ▸ srecv, hcount ▸ scount,
    fun o ho => hmem o ho ▸ hnone o ho⟩

/-- A write of an input slot keeps the invariant: it changes no output (R31). -/
theorem BlockInv.write_inBuf {k : Nat} (hs : BlockInv s) (v : Word) (hk : k < s.params.inDepth) :
    BlockInv { s with mem := s.mem.write (inBufOffset k) v } := by
  obtain ⟨hlegal, hwf, hengine, hmapped, hreserved, hwindows, hexplained⟩ := hs
  obtain ⟨⟨-, hdepth⟩, -⟩ := (legalParams_iff _).1 hlegal
  have same : SameOutputs s { s with mem := s.mem.write (inBufOffset k) v } :=
    ⟨rfl, rfl, rfl, rfl, rfl, rfl, rfl, rfl, fun o ho =>
      (read_write_inBuf_of_output s.mem v (Nat.lt_of_lt_of_le hk hdepth) ho).symm⟩
  refine ⟨hlegal, Memory.wf_write _ _ _ hwf, hengine, fun o ho => ?_, same.reservedBitsZero hreserved,
    same.windowsFilled rfl hwindows, same.outputsExplained hexplained⟩
  simp only [Memory.read_write] at ho ⊢
  split at ho
  case isTrue heq =>
    subst heq
    unfold inBufOffset
    omega
  case isFalse => exact hmapped o ho

/-- A store in an input register keeps the invariant, which speaks of no input register but IN_BUF. -/
theorem BlockInv.storeReg {r : RegName} (hs : BlockInv s) (v : Word)
    (hr : ∀ k, r = .inBuf k → k < s.params.inDepth) : BlockInv (storeReg s r v) := by
  cases r with
  | inBuf k => exact hs.write_inBuf v (hr k rfl)
  | _ => exact hs

/-! ### Every step -/

theorem StepLeaves.blockInv (h : StepLeaves s t) (hs : BlockInv s) : BlockInv t := by
  cases h with
  | releaseReset rest => exact resetWith_blockInv hs.1
  | store rest r v hr => exact BlockInv.storeReg (s := { s with pending := rest }) hs v hr
  | command rest _ f es ht => exact ht.blockInv hs
  | _ => exact hs

end Sys2Proof.Machine

open Sys2Proof Sys2Proof.Machine

/-- Settles O16: a command establishes the invariant, reset re-establishes it, and every other step keeps the
outputs. -/
theorem stepKeepsTheBlockInvariant : Obligations.StepKeepsTheBlockInvariant :=
  fun _ _ hs h => (step_leaves h).blockInv hs

end

section
/-! PROOFS about the host accesses that are answered at once (10_state.md R17 to R19, 20_memory.md R47 to R51,
60_exceptions.md R139): the read of a register that holds a value, and the refusals in the order of the checks. -/

namespace Sys2Proof.Machine

/-! ### Reads -/

/-- A register that holds a value can be read: CMD and the reserved offsets hold none (R18, R19). -/
theorem accessOf_of_readReg_some {s : State} {r : RegName} {v : Word} (h : readReg s r = some v) :
    accessOf r = .readOnly ∨ accessOf r = .readWrite :=
  accessOf_readable (by rintro rfl; cases h) (by rintro rfl; cases h)

/-- A read of a register that holds a value (R49, R50). -/
theorem busRead_some {o : BitVec 16} {s : State} {v : Word} (ho : o.toNat % 4 = 0)
    (h : readReg s (regAt s.params.inDepth o.toNat) = some v) :
    busRead o 32 s = .next { s with readLog := v :: s.readLog } := by
  rcases accessOf_of_readReg_some h with ha | ha <;> simp [busRead, ho, ha, h]

/-! ### Refusals (R51, R139) -/

theorem badBusAccess_iff (o : BitVec 16) (width : Nat) :
    badBusAccess o width = true ↔ width ≠ 32 ∨ o.toNat % 4 ≠ 0 := by
  simp [badBusAccess]

section
variable {run : Instr → State → Result} {o : BitVec 16} {s : State}

/-- The first check comes before any look at the register (R47, R139). -/
theorem busRead_bad {width : Nat} (h : badBusAccess o width = true) : busRead o width s = .refused .busAccess :=
  if_pos h

theorem busWrite_bad {width : Nat} (v : Word) (h : badBusAccess o width = true) :
    busWrite run o width v s = .refused .busAccess :=
  if_pos h

theorem busRead_reserved (ho : o.toNat % 4 = 0) (hr : regAt s.params.inDepth o.toNat = .reserved) :
    busRead o 32 s = .refused .reservedOffset := by
  simp [busRead, ho, hr, accessOf]

theorem busWrite_reserved (v : Word) (ho : o.toNat % 4 = 0) (hr : regAt s.params.inDepth o.toNat = .reserved) :
    busWrite run o 32 v s = .refused .reservedOffset := by
  simp [busWrite, ho, hr, accessOf]

theorem busRead_cmd (ho : o.toNat % 4 = 0) (hr : regAt s.params.inDepth o.toNat = .cmd) :
    busRead o 32 s = .refused .readWriteOnly := by
  simp [busRead, ho, hr, accessOf]

theorem busWrite_readOnly (v : Word) (ho : o.toNat % 4 = 0)
    (ha : accessOf (regAt s.params.inDepth o.toNat) = .readOnly) :
    busWrite run o 32 v s = .refused .writeReadOnly := by
  simp [busWrite, ho, ha]

end

/-- The read-only registers of R18, by name. -/
theorem accessOf_eq_readOnly {r : RegName}
    (h : r ∈ [.status, .slaveAddr, .func, .exc, .frameLen, .crcCalc, .crcRecv, .entryCount] ∨
      (∃ k w, r = .entry k w) ∨ ∃ k, r = .frameBuf k) : accessOf r = .readOnly := by
  rcases h with h | ⟨k, w, rfl⟩ | ⟨k, rfl⟩
  · revert r
    decide
  · rfl
  · rfl

end Sys2Proof.Machine

open Sys2Proof Sys2Proof.Machine

/-- Settles O8. -/
theorem hostReadReturnsTheRegister : Obligations.HostReadReturnsTheRegister :=
  fun _ _ _ _ h ho hv => (step_access h).trans (busRead_some ho hv)

/-- Settles O11: the checks of a read and of a write, one after the other. -/
theorem refusedAccessesInOrder : Obligations.RefusedAccessesInOrder := by
  intro s o width v rest hrunning
  have access (a : BusAccess) : step { s with pending := .access a :: rest } =
      busAccess exec a { s with pending := rest } :=
    step_access (s := { s with pending := .access a :: rest }) ⟨hrunning, rfl⟩
  simp only [access]
  refine ⟨fun hbad => ?bad, fun hwidth ho => ?_⟩
  case bad =>
    have hbad := (badBusAccess_iff o width).2 hbad
    exact ⟨busRead_bad hbad, busWrite_bad v hbad⟩
  subst hwidth
  exact ⟨fun hr => ⟨busRead_reserved ho hr, busWrite_reserved v ho hr⟩, fun hr => busRead_cmd ho hr,
    fun hr => busWrite_readOnly v ho (accessOf_eq_readOnly hr)⟩

end

section
/-! PROOFS about the platform parameters (20_memory.md R40, R45, 43_regdecode.md R130): a stage whose answers move with
the platform ignores it, and every stage of the machine, up to the step, is built from such stages. -/

namespace Sys2Proof.Machine

/-- A choice of the three open parameters: P_BASE, P_BUS_ENDIAN and P_DESC_MERGE (R40, R45, R130). -/
structure Platform where
  base : Nat
  busEndian : BusEndian
  descMerge : DescMerge

/-- The block on another platform. -/
def State.onPlatform (s : State) (q : Platform) : State :=
  { s with params := { s.params with base := q.base, busEndian := q.busEndian, descMerge := q.descMerge } }

/-- An answer on another platform: the next state moves, a fault or a refusal stays. -/
def Result.onPlatform (q : Platform) (r : Result) : Result :=
  match r with
  | .next s => .next (s.onPlatform q)
  | .fault x => .fault x
  | .refused x => .refused x

/-- An update of the state that does the same on every platform. -/
def Moves (g : State → State) : Prop := ∀ (q : Platform) (s : State), g (s.onPlatform q) = (g s).onPlatform q

/-- A stage that answers the same on every platform. -/
def IgnoresPlatform (k : State → Result) : Prop :=
  ∀ (q : Platform) (s : State), k (s.onPlatform q) = Result.onPlatform q (k s)

@[simp] theorem onPlatform_next (q : Platform) (s : State) :
    Result.onPlatform q (.next s) = .next (s.onPlatform q) := rfl
@[simp] theorem onPlatform_fault (q : Platform) (x : Fault) : Result.onPlatform q (.fault x) = .fault x := rfl
@[simp] theorem onPlatform_refused (q : Platform) (x : Refusal) : Result.onPlatform q (.refused x) = .refused x := rfl

/-! ### The updates of the state -/

@[simp] theorem onPlatform_regTable (s : State) (q : Platform) :
    (s.onPlatform q).params.regTable = s.params.regTable := rfl
@[simp] theorem onPlatform_inDepth (s : State) (q : Platform) :
    (s.onPlatform q).params.inDepth = s.params.inDepth := rfl
@[simp] theorem onPlatform_pending (s : State) (q : Platform) : (s.onPlatform q).pending = s.pending := rfl
@[simp] theorem onPlatform_resetHeld (s : State) (q : Platform) : (s.onPlatform q).resetHeld = s.resetHeld := rfl
@[simp] theorem onPlatform_inMode (s : State) (q : Platform) : (s.onPlatform q).inMode = s.inMode := rfl
@[simp] theorem onPlatform_inLen (s : State) (q : Platform) : (s.onPlatform q).inLen = s.inLen := rfl
@[simp] theorem onPlatform_regAddr (s : State) (q : Platform) : (s.onPlatform q).regAddr = s.regAddr := rfl
@[simp] theorem onPlatform_regRaw (s : State) (q : Platform) : (s.onPlatform q).regRaw = s.regRaw := rfl
@[simp] theorem onPlatform_mem (s : State) (q : Platform) : (s.onPlatform q).mem = s.mem := rfl
@[simp] theorem onPlatform_engine (s : State) (q : Platform) : (s.onPlatform q).engine = s.engine := rfl

theorem moves_setEngine (w : Working) : Moves (·.setEngine w) := fun _ _ => rfl

theorem moves_pushEntry (w : Working) (e : Entry) : Moves (·.pushEntry w e) := fun _ _ => rfl

theorem moves_setFrame (w : Working) (f : List Byte) : Moves (·.setFrame w f) := fun _ _ => rfl

theorem moves_beginCommand (op : CmdOp) : Moves (·.beginCommand op) := fun _ _ => rfl

theorem moves_failWith (op : CmdOp) (c : StatusCode) : Moves (·.failWith op c) := by
  intro q s
  cases op <;> rfl

theorem moves_storeReg (r : RegName) (v : Word) : Moves (storeReg · r v) := by
  intro q s
  cases r <;> rfl

theorem moves_releaseReset : Moves State.releaseReset := fun _ _ => rfl

theorem readReg_onPlatform (s : State) (q : Platform) (r : RegName) : readReg (s.onPlatform q) r = readReg s r := by
  cases r <;> rfl

/-! ### How stages are put together -/

namespace IgnoresPlatform

theorem next {g : State → State} (hg : Moves g) : IgnoresPlatform fun s => .next (g s) :=
  fun q s => congrArg Host.Outcome.next (hg q s)

theorem refused (x : Refusal) : IgnoresPlatform fun _ => .refused x := fun _ _ => rfl

theorem comp {k : State → Result} {g : State → State} (hk : IgnoresPlatform k) (hg : Moves g) :
    IgnoresPlatform fun s => k (g s) :=
  fun q s => (congrArg k (hg q s)).trans (hk q (g s))

theorem ite {c : Prop} [Decidable c] {k l : State → Result} (hk : IgnoresPlatform k) (hl : IgnoresPlatform l) :
    IgnoresPlatform fun s => if c then k s else l s := by
  split
  · exact hk
  · exact hl

theorem withRunning {k : State → Working → Result} (hk : ∀ w, IgnoresPlatform (k · w)) :
    IgnoresPlatform fun s => Machine.withRunning s (k s) := by
  intro q s
  simp only [Machine.withRunning, onPlatform_engine]
  cases s.engine with
  | none => rfl
  | some w => exact hk w q s

theorem failCommand (c : StatusCode) : IgnoresPlatform (failCommand c) :=
  withRunning fun w => next (moves_failWith w.op c)

theorem withOperand {α : Type} {x : Option α} {k : State → α → Result} (hk : ∀ v, IgnoresPlatform (k · v)) :
    IgnoresPlatform fun s => Machine.withOperand s x (k s) := by
  cases x with
  | none => exact failCommand .payloadOverrun
  | some v => exact hk v

theorem andThen {r k : State → Result} (hr : IgnoresPlatform r) (hk : IgnoresPlatform k) :
    IgnoresPlatform fun s => (r s).andThen k := by
  intro q s
  simp only [hr q s]
  cases r s with
  | fault x => rfl
  | refused x => rfl
  | next t =>
    cases ht : t.engine with
    | none => rw [andThen_ended k ht, onPlatform_next, andThen_ended (s := t.onPlatform q) k ht]
    | some w => rw [andThen_running k ht, onPlatform_next, andThen_running (s := t.onPlatform q) k ht, hk]

/-- The checks of R79 ask for P_IN_DEPTH alone of the parameters. -/
theorem withInputSlots {k : State → List Word → Result} (hk : ∀ vs, IgnoresPlatform (k · vs)) :
    IgnoresPlatform fun s => Machine.withInputSlots s (k s) := by
  intro q s
  cases hlen : s.inLen with
  | none => simp [Machine.withInputSlots, hlen]
  | some n =>
    by_cases hn : s.params.inDepth < n.toNat
    · simp [Machine.withInputSlots, hlen, hn]
    · cases hslots : inputSlots s.mem 0 n.toNat with
      | none => simp [Machine.withInputSlots, hlen, hn, hslots]
      | some vs => simpa [Machine.withInputSlots, hlen, hn, hslots] using hk vs q s

end IgnoresPlatform

/-! ### The ingress stage (R79 to R85) -/

theorem execInBytes_ignoresPlatform : IgnoresPlatform execInBytes :=
  .withRunning fun w => .withInputSlots fun vs => .next (moves_setFrame w (vs.map slotByte))

theorem execInHex_ignoresPlatform : IgnoresPlatform execInHex :=
  .withRunning fun w => .withInputSlots fun vs => .ite (.failCommand .inputOddLength) <| by
    cases hexvals (hexChars vs) with
    | none => exact .failCommand .inputBadDigit
    | some ds => exact .next (moves_setFrame w (pairDigits ds))

theorem execInWords_ignoresPlatform : IgnoresPlatform execInWords :=
  .withRunning fun w => .withInputSlots fun vs =>
    .ite (.failCommand .inputRange) (.next (moves_setFrame w (vs.map slotByte)))

theorem execInReserved_ignoresPlatform : IgnoresPlatform execInReserved := .failCommand .inputUnsupported

theorem runInputDecoder_ignoresPlatform (m : BitVec 2) : IgnoresPlatform (runInputDecoder m) := by
  unfold runInputDecoder
  split
  · exact execInBytes_ignoresPlatform
  · exact execInHex_ignoresPlatform
  · exact execInWords_ignoresPlatform
  · exact execInReserved_ignoresPlatform

theorem ingress_ignoresPlatform : IgnoresPlatform ingress := by
  intro q s
  simp only [ingress, onPlatform_inMode]
  cases s.inMode with
  | none => rfl
  | some m => exact runInputDecoder_ignoresPlatform m q s

/-! ### The value decoder (R119 to R127) -/

theorem appendKnown_ignoresPlatform (a : Half) (f : Entry → Descriptor → Entry) :
    IgnoresPlatform (appendKnown · a f) :=
  .withRunning fun w q s => by
    simp only [onPlatform_regTable]
    cases lookup s.params.regTable a with
    | none => rfl
    | some d => exact IgnoresPlatform.next (moves_pushEntry w _) q s

theorem execUnknown_ignoresPlatform (a : Half) : IgnoresPlatform (execUnknown a) :=
  .withRunning fun w q s => by
    simp only [onPlatform_regTable]
    cases lookup s.params.regTable a with
    | none => exact IgnoresPlatform.next (moves_pushEntry w _) q s
    | some d => rfl

theorem execErrorCode_ignoresPlatform : IgnoresPlatform execErrorCode := appendKnown_ignoresPlatform _ _
theorem execStatusFlags_ignoresPlatform : IgnoresPlatform execStatusFlags := appendKnown_ignoresPlatform _ _
theorem execCarrierFreq_ignoresPlatform : IgnoresPlatform execCarrierFreq := appendKnown_ignoresPlatform _ _
theorem execMeasRange_ignoresPlatform : IgnoresPlatform execMeasRange := appendKnown_ignoresPlatform _ _
theorem execStatusCmd_ignoresPlatform : IgnoresPlatform execStatusCmd := appendKnown_ignoresPlatform _ _
theorem execGeneric_ignoresPlatform (a : Half) : IgnoresPlatform (execGeneric a) := appendKnown_ignoresPlatform _ _

theorem runVariant_ignoresPlatform (a : Half) : IgnoresPlatform (runVariant a) := by
  intro q s
  simp only [runVariant, onPlatform_regTable]
  cases lookup s.params.regTable a with
  | none => exact execUnknown_ignoresPlatform a q s
  | some d =>
    exact IgnoresPlatform.ite execErrorCode_ignoresPlatform
      (.ite execStatusFlags_ignoresPlatform <| .ite execCarrierFreq_ignoresPlatform <|
        .ite execMeasRange_ignoresPlatform <| .ite execStatusCmd_ignoresPlatform (execGeneric_ignoresPlatform a)) q s

theorem runRegDecode_ignoresPlatform (a raw : Half) (write : Bool) : IgnoresPlatform (runRegDecode a raw write) :=
  .withRunning fun w => (runVariant_ignoresPlatform a).comp (moves_setEngine { w with raw, write })

/-! ### The handlers and the router (R101 to R107) -/

theorem rhrPosition_ignoresPlatform : IgnoresPlatform rhrPosition :=
  .withRunning fun w => .withOperand fun raw =>
    .andThen (runRegDecode_ignoresPlatform (logicalAddress w.pos) raw false) <|
      .withRunning fun v => .next (moves_setEngine { v with pos := v.pos + 1 })

theorem rhrLoop_ignoresPlatform (n : Nat) : IgnoresPlatform (rhrLoop n) := by
  induction n with
  | zero => exact .next fun _ _ => rfl
  | succ n ih => exact .andThen rhrPosition_ignoresPlatform ih

theorem execRhr_ignoresPlatform : IgnoresPlatform execRhr :=
  .withRunning fun w => .withOperand fun bc =>
    (rhrLoop_ignoresPlatform (registerCount bc)).comp (moves_setEngine { w with pos := 0, exc := .none })

theorem execWsr_ignoresPlatform : IgnoresPlatform execWsr :=
  .withRunning fun w => .withOperand fun a => .withOperand fun raw q s => by
    have running : Moves (·.setEngine { w with exc := .none }) := moves_setEngine _
    simp only [onPlatform_regTable]
    cases lookup s.params.regTable a with
    | none => exact IgnoresPlatform.next running q s
    | some d => exact (runRegDecode_ignoresPlatform a raw true).comp running q s

theorem execExc_ignoresPlatform : IgnoresPlatform execExc :=
  .withRunning fun _ => .withOperand fun _ => .next (moves_setEngine _)

theorem execOther_ignoresPlatform (fc : Byte) : IgnoresPlatform (execOther fc) :=
  .withRunning fun _ => .next (moves_setEngine _)

theorem route_ignoresPlatform : IgnoresPlatform route :=
  .withRunning fun _ => .withOperand fun fc =>
    .ite execRhr_ignoresPlatform <| .ite execWsr_ignoresPlatform <|
      .ite execExc_ignoresPlatform (execOther_ignoresPlatform fc)

/-! ### The commands (R99, R108 to R110) -/

theorem lengthTest_ignoresPlatform : IgnoresPlatform lengthTest :=
  .withRunning fun _ => .ite (.failCommand .frameTooShort) (.next fun _ _ => rfl)

theorem crcVerify_ignoresPlatform : IgnoresPlatform crcVerify :=
  .withRunning fun _ => .ite (.failCommand .checksum) <| .withOperand fun _ =>
    .ite (.next fun _ _ => rfl) (.comp (.failCommand .checksum) fun _ _ => rfl)

theorem finishDecode_ignoresPlatform : IgnoresPlatform finishDecode :=
  .withRunning fun _ => .withOperand fun _ => .withOperand fun _ => .next fun _ _ => rfl

theorem execDecodeFrame_ignoresPlatform : IgnoresPlatform execDecodeFrame :=
  .andThen (.andThen (.andThen (.andThen (ingress_ignoresPlatform.comp (moves_beginCommand .decodeFrame))
    lengthTest_ignoresPlatform) crcVerify_ignoresPlatform) route_ignoresPlatform) finishDecode_ignoresPlatform

theorem publishRunningFrame_ignoresPlatform : IgnoresPlatform publishRunningFrame :=
  .withRunning fun _ => .next fun _ _ => rfl

theorem finishOk_ignoresPlatform : IgnoresPlatform finishOk := .next fun _ _ => rfl

theorem execCrcCheck_ignoresPlatform : IgnoresPlatform execCrcCheck :=
  .andThen (.andThen (.andThen (ingress_ignoresPlatform.comp (moves_beginCommand .crcCheck))
    publishRunningFrame_ignoresPlatform) crcVerify_ignoresPlatform) finishOk_ignoresPlatform

theorem finishRegDecode_ignoresPlatform : IgnoresPlatform finishRegDecode :=
  .withRunning fun _ => .next fun _ _ => rfl

theorem execRegDecode_ignoresPlatform : IgnoresPlatform execRegDecode := by
  intro q s
  simp only [execRegDecode, onPlatform_regAddr, onPlatform_regRaw]
  cases s.regAddr with
  | none => rfl
  | some a =>
    cases s.regRaw with
    | none => rfl
    | some raw =>
      exact IgnoresPlatform.andThen
        ((runRegDecode_ignoresPlatform a raw false).comp (moves_beginCommand .regDecode))
        finishRegDecode_ignoresPlatform q s

theorem execCmdReserved_ignoresPlatform : IgnoresPlatform execCmdReserved :=
  (IgnoresPlatform.failCommand .badCommand).comp (moves_beginCommand .reserved)

theorem exec_ignoresPlatform (i : Instr) : IgnoresPlatform (exec i) := by
  cases i with
  | decodeFrame => exact execDecodeFrame_ignoresPlatform
  | crcCheck => exact execCrcCheck_ignoresPlatform
  | regDecode => exact execRegDecode_ignoresPlatform
  | cmdReserved => exact execCmdReserved_ignoresPlatform
  | inBytes => exact execInBytes_ignoresPlatform
  | inHex => exact execInHex_ignoresPlatform
  | inWords => exact execInWords_ignoresPlatform
  | inReserved => exact execInReserved_ignoresPlatform
  | rhr => exact execRhr_ignoresPlatform
  | wsr => exact execWsr_ignoresPlatform
  | exc => exact execExc_ignoresPlatform
  | other fc => exact execOther_ignoresPlatform fc
  | unknown a => exact execUnknown_ignoresPlatform a
  | errorCode => exact execErrorCode_ignoresPlatform
  | statusFlags => exact execStatusFlags_ignoresPlatform
  | carrierFreq => exact execCarrierFreq_ignoresPlatform
  | measRange => exact execMeasRange_ignoresPlatform
  | statusCmd => exact execStatusCmd_ignoresPlatform
  | generic a => exact execGeneric_ignoresPlatform a

/-! ### The step (R54) -/

theorem busRead_ignoresPlatform (o : BitVec 16) (width : Nat) : IgnoresPlatform (busRead o width) :=
  .ite (.refused .busAccess) <| by
    intro q s
    simp only [onPlatform_inDepth, readReg_onPlatform]
    cases accessOf (regAt s.params.inDepth o.toNat) with
    | noAccess | writeOnly => rfl
    | readOnly | readWrite => cases readReg s (regAt s.params.inDepth o.toNat) <;> rfl

theorem busWrite_ignoresPlatform (o : BitVec 16) (width : Nat) (v : Word) :
    IgnoresPlatform (busWrite exec o width v) :=
  .ite (.refused .busAccess) <| by
    intro q s
    simp only [onPlatform_inDepth, onPlatform_regTable]
    cases accessOf (regAt s.params.inDepth o.toNat) with
    | noAccess | readOnly => rfl
    | writeOnly => exact exec_ignoresPlatform _ q s
    | readWrite => exact IgnoresPlatform.next (moves_storeReg _ v) q s

theorem busAccess_ignoresPlatform (a : BusAccess) : IgnoresPlatform (busAccess exec a) := by
  cases a with
  | read o width => exact busRead_ignoresPlatform o width
  | write o width v => exact busWrite_ignoresPlatform o width v

theorem hostEvent_ignoresPlatform (e : HostEvent) : IgnoresPlatform (hostEvent exec e) := by
  intro q s
  cases e with
  | assertReset => rfl
  | releaseReset => cases hheld : s.resetHeld <;> simp [hostEvent, hheld, moves_releaseReset q s]
  | access a =>
    cases hheld : s.resetHeld with
    | true => simp [hostEvent, hheld]
    | false => simpa [hostEvent, hheld] using busAccess_ignoresPlatform a q s

theorem step_ignoresPlatform : IgnoresPlatform step := by
  intro q s
  simp only [step, takeEvent, onPlatform_pending]
  cases s.pending with
  | nil => rfl
  | cons e rest => exact hostEvent_ignoresPlatform e q { s with pending := rest }

end Sys2Proof.Machine

open Sys2Proof Sys2Proof.Machine

/-- Settles O20: every stage the step is built from ignores the platform. -/
theorem noStepDependsOnThePlatformParameters : Obligations.NoStepDependsOnThePlatformParameters := by
  intro s base busEndian descMerge f
  refine (step_ignoresPlatform { base, busEndian, descMerge } s).trans ?_
  cases step s <;> rfl

end

section
/-! PROOFS about the encoding (30_encoding.md): what the four dispatch maps select, the two round trips with the
encoder, and each stage as `exec` of the instruction its selecting value decodes to. -/

namespace Sys2Proof.Machine

/-! ### CMD.OP and IN_MODE.MODE (R59, R60) -/

/-- CMD.OP is all of a CMD word that `decodeCmd` reads (R59). -/
theorem decodeCmd_congr {v v' : Word} (h : v.extractLsb' 0 2 = v'.extractLsb' 0 2) : decodeCmd v = decodeCmd v' := by
  rw [decodeCmd, decodeCmd, h]

/-- A two-bit field is unchanged by widening it to a word and taking it out again. -/
@[simp] theorem extractLsb'_zext32 (m : BitVec 2) : (zext32 m).extractLsb' 0 2 = m := by
  revert m
  decide

theorem bitVec2_cases (m : BitVec 2) : m = 0 ∨ m = 1 ∨ m = 2 ∨ m = 3 := by
  revert m
  decide

theorem encode_decodeCmd_zext32 (m : BitVec 2) : encode (decodeCmd (zext32 m)) = .cmd (zext32 m) := by
  rcases bitVec2_cases m with rfl | rfl | rfl | rfl <;> rfl

/-- The encoder gives a CMD word back with the bits above OP cleared (R59). -/
theorem encode_decodeCmd (v : Word) : encode (decodeCmd v) = .cmd (zext32 (v.extractLsb' 0 2)) := by
  rw [← encode_decodeCmd_zext32]
  exact congrArg encode (decodeCmd_congr (extractLsb'_zext32 _).symm)

/-- The encoder gives MODE back as a word (R60). -/
theorem encode_decodeMode (m : BitVec 2) : encode (decodeMode m) = .inMode (zext32 m) := by
  rcases bitVec2_cases m with rfl | rfl | rfl | rfl <;> rfl

/-! ### The function code (R69) -/

/-- OTHER stands for the codes that no other handler has. -/
theorem wellFormed_other_iff (tab : RegTable) (fc : Byte) :
    WellFormed tab (.other fc) = true ↔ fc ≠ 0x03 ∧ fc ≠ 0x06 ∧ fc ≠ 0x83 := by
  simp [WellFormed, and_assoc]

theorem decodeFunc_of_other {fc : Byte} (h : fc ≠ 0x03 ∧ fc ≠ 0x06 ∧ fc ≠ 0x83) : decodeFunc fc = .other fc := by
  obtain ⟨hrhr, hwsr, hexc⟩ := h
  rw [decodeFunc, if_neg hrhr, if_neg hwsr, if_neg hexc]

/-- The codes of R69: the three handlers' own, and all others. -/
theorem functionCode_cases (fc : Byte) :
    fc = 0x03 ∨ fc = 0x06 ∨ fc = 0x83 ∨ (fc ≠ 0x03 ∧ fc ≠ 0x06 ∧ fc ≠ 0x83) := by
  tauto

theorem wellFormed_decodeFunc (tab : RegTable) (fc : Byte) : WellFormed tab (decodeFunc fc) = true := by
  rcases functionCode_cases fc with rfl | rfl | rfl | h
  · rfl
  · rfl
  · rfl
  · rw [decodeFunc_of_other h]
    exact (wellFormed_other_iff tab fc).2 h

theorem encode_decodeFunc (fc : Byte) : encode (decodeFunc fc) = .frame fc := by
  rcases functionCode_cases fc with rfl | rfl | rfl | h
  · rfl
  · rfl
  · rfl
  · rw [decodeFunc_of_other h]
    rfl

/-! ### The register address (R70) -/

/-- The variant that an address with a descriptor selects: the overrides first, then GENERIC (R35, R70). -/
def describedVariant (a : Half) : Instr :=
  if a = 0x0006 then .errorCode
  else if a = 0x0007 then .statusFlags
  else if a = 0x0014 then .carrierFreq
  else if a = 0x0019 then .measRange
  else if a = 0x1001 then .statusCmd
  else .generic a

/-- The absent address comes first in the order of R70. -/
theorem decodeAddr_eq (tab : RegTable) (a : Half) :
    decodeAddr tab a = if described tab a then describedVariant a else .unknown a := by
  unfold decodeAddr described
  cases lookup tab a <;> rfl

theorem decodeAddr_described {tab : RegTable} {a : Half} (h : described tab a = true) :
    decodeAddr tab a = describedVariant a := by
  rw [decodeAddr_eq, if_pos h]

theorem decodeAddr_undescribed {tab : RegTable} {a : Half} (h : described tab a = false) :
    decodeAddr tab a = .unknown a := by
  rw [decodeAddr_eq, h]
  rfl

theorem not_override_iff (a : Half) :
    overrideAddresses.contains a = false ↔ a ≠ 0x0006 ∧ a ≠ 0x0007 ∧ a ≠ 0x0014 ∧ a ≠ 0x0019 ∧ a ≠ 0x1001 := by
  simp [overrideAddresses]

/-- The five override addresses of R35, and all others. -/
theorem address_cases (a : Half) :
    a = 0x0006 ∨ a = 0x0007 ∨ a = 0x0014 ∨ a = 0x0019 ∨ a = 0x1001 ∨ overrideAddresses.contains a = false := by
  rw [not_override_iff]
  tauto

theorem describedVariant_generic {a : Half} (h : overrideAddresses.contains a = false) :
    describedVariant a = .generic a := by
  obtain ⟨herror, hstatus, hcarrier, hrange, hcommand⟩ := (not_override_iff a).1 h
  rw [describedVariant, if_neg herror, if_neg hstatus, if_neg hcarrier, if_neg hrange, if_neg hcommand]

/-- The variant a described address selects asks for the descriptor of that address and for nothing more. -/
theorem wellFormed_describedVariant (tab : RegTable) (a : Half) :
    WellFormed tab (describedVariant a) = described tab a := by
  rcases address_cases a with rfl | rfl | rfl | rfl | rfl | hgeneric
  iterate 5 · rfl
  · rw [describedVariant_generic hgeneric, WellFormed, hgeneric, Bool.not_false, Bool.and_true]

theorem encode_describedVariant (a : Half) : encode (describedVariant a) = .regAddr a := by
  rcases address_cases a with rfl | rfl | rfl | rfl | rfl | hgeneric
  iterate 5 · rfl
  · rw [describedVariant_generic hgeneric, encode]

theorem wellFormed_decodeAddr (tab : RegTable) (a : Half) : WellFormed tab (decodeAddr tab a) = true := by
  cases h : described tab a with
  | true => rw [decodeAddr_described h, wellFormed_describedVariant, h]
  | false => rw [decodeAddr_undescribed h, WellFormed, h, Bool.not_false]

theorem encode_decodeAddr (tab : RegTable) (a : Half) : encode (decodeAddr tab a) = .regAddr a := by
  cases h : described tab a with
  | true => rw [decodeAddr_described h, encode_describedVariant]
  | false => rw [decodeAddr_undescribed h, encode]

/-! ### The round trips -/

/-- Decoding an encoded well-formed instruction: CMD, IN_MODE and the three handlers' codes are fixed words; OTHER and
the address variants are what the conditions of R69 and R70 single out. -/
theorem decode_encode {tab : RegTable} {i : Instr} (h : WellFormed tab i = true) : decode tab (encode i) = i := by
  cases i with
  | decodeFrame | crcCheck | regDecode | cmdReserved => rfl
  | inBytes | inHex | inWords | inReserved => rfl
  | rhr | wsr | exc => rfl
  | other fc => exact decodeFunc_of_other ((wellFormed_other_iff tab fc).1 h)
  | unknown a => exact decodeAddr_undescribed (by simpa [WellFormed] using h)
  | errorCode | statusFlags | carrierFreq | measRange | statusCmd => exact decodeAddr_described h
  | generic a =>
    obtain ⟨hdescribed, hgeneric⟩ : described tab a = true ∧ overrideAddresses.contains a = false := by
      simpa [WellFormed] using h
    exact (decodeAddr_described hdescribed).trans (describedVariant_generic hgeneric)

/-- Every word selects an instruction that the maps of R69 to R71 allow (R72). -/
theorem wellFormed_decode (tab : RegTable) (c : Code) : WellFormed tab (decode tab c) = true := by
  cases c with
  | cmd v => rcases decodeCmd_cases v with h | h | h | h <;> rw [decode, h] <;> rfl
  | inMode v =>
    rw [decode]
    rcases bitVec2_cases (v.extractLsb' 0 2) with h | h | h | h <;> rw [h] <;> rfl
  | frame fc => exact wellFormed_decodeFunc tab fc
  | regAddr a => exact wellFormed_decodeAddr tab a

theorem encode_decode (tab : RegTable) (c : Code) : encode (decode tab c) = c.significant := by
  cases c with
  | cmd v => exact encode_decodeCmd v
  | inMode v => exact encode_decodeMode _
  | frame fc => exact encode_decodeFunc fc
  | regAddr a => exact encode_decodeAddr tab a

theorem encode_format (i : Instr) : (encode i).format = i.format := by
  cases i <;> rfl

theorem significant_format (c : Code) : c.significant.format = c.format := by
  cases c <;> rfl

/-! ### Stages run what their selecting value decodes to (R69 to R71) -/

theorem runInputDecoder_eq_exec (m : BitVec 2) (s : State) : runInputDecoder m s = exec (decodeMode m) s := by
  rcases bitVec2_cases m with rfl | rfl | rfl | rfl <;> rfl

theorem ingress_of_mode {s : State} {m : BitVec 2} (h : s.inMode = some m) : ingress s = runInputDecoder m s := by
  rw [ingress, h]

theorem runHandler_eq_exec (fc : Byte) (s : State) : runHandler fc s = exec (decodeFunc fc) s := by
  rcases functionCode_cases fc with rfl | rfl | rfl | h
  · rfl
  · rfl
  · rfl
  · obtain ⟨hrhr, hwsr, hexc⟩ := h
    rw [decodeFunc_of_other ⟨hrhr, hwsr, hexc⟩, runHandler, if_neg hrhr, if_neg hwsr, if_neg hexc]
    rfl

theorem route_of_functionCode {s : State} {w : Working} {fc : Byte} (h : s.engine = some w)
    (hfc : frameByte w.frame 1 = some fc) : route s = runHandler fc s := by
  rw [route, withRunning_some _ h, hfc, withOperand_some]

theorem runVariant_eq_exec (a : Half) (s : State) :
    runVariant a s = exec (decodeAddr s.params.regTable a) s := by
  unfold runVariant decodeAddr
  cases lookup s.params.regTable a with
  | none => rfl
  | some r => split_ifs <;> rfl

/-! ### A write of CMD and OTHER -/

/-- A pending write of CMD: refused while reset is held, else the command its word selects runs (R98, R151). -/
theorem step_cmdWrite (s : State) (rest : List HostEvent) (v : Word) :
    step { s with pending := .access (.write 0 32 v) :: rest } =
      if s.resetHeld then .refused .heldInReset else exec (decodeCmd v) { s with pending := rest } := rfl

theorem exec_other_running {s : State} {w : Working} (fc : Byte) (h : s.engine = some w) :
    exec (.other fc) s = .next (s.setEngine { w with exc := .none }) :=
  withRunning_some _ h

end Sys2Proof.Machine

open Sys2Proof Sys2Proof.Machine

/-- Settles O1. -/
theorem decodeOfEncodeIsIdentity : Obligations.DecodeOfEncodeIsIdentity :=
  fun _ _ => decode_encode

/-- Settles O2: the encoding fixes the format, and decoding it again is the other round trip. -/
theorem everyWordDecodesToOneInstruction : Obligations.EveryWordDecodesToOneInstruction := by
  intro tab c
  have hencode := encode_decode tab c
  refine ⟨wellFormed_decode tab c, hencode, ?format, ?again⟩
  case format => rw [← encode_format, hencode, significant_format]
  case again => rw [← hencode, decode_encode (wellFormed_decode tab c)]

/-- Settles O7: each stage selects by the map that `decode` selects by. -/
theorem stagesRunTheDecodedInstruction : Obligations.StagesRunTheDecodedInstruction := by
  intro s
  refine ⟨fun m hm => ?ingress, fun w hw => ⟨fun fc hfc => ?router, fun a raw write => ?value⟩⟩
  case ingress => rw [ingress_of_mode hm, runInputDecoder_eq_exec, decode, extractLsb'_zext32]
  case router => rw [route_of_functionCode hw hfc, runHandler_eq_exec, decode]
  case value => rw [runRegDecode, withRunning_some _ hw, runVariant_eq_exec, setEngine_params, decode]

/-- Settles O3. -/
theorem commandBitsAboveOpAreIgnored : Obligations.CommandBitsAboveOpAreIgnored := by
  intro s rest v v' hop
  have hdecode : decodeCmd v = decodeCmd v' := decodeCmd_congr hop
  exact ⟨hdecode, by rw [step_cmdWrite, step_cmdWrite, hdecode]⟩

/-- Settles O35. -/
theorem otherCarriesNoPayload : Obligations.OtherCarriesNoPayload :=
  fun _ _ fc hw => exec_other_running fc hw

end

section
/-! PROOFS about the ingress stage (40_ingress.md R79 to R87): what each input decoder answers on the slots it reads,
what the checks before the decoders stop, and that the outputs depend on the frame alone. -/

namespace Sys2Proof.Machine

variable {s t : State} {w : Working} {vs : List Word}

/-! ### Characters and elements (R80 to R84) -/

theorem map_slotByte (vs : List Word) : vs.map slotByte = vs.map fun v => v.extractLsb' 0 8 :=
  List.map_congr_left fun _ _ => BitVec.setWidth_eq_extractLsb' (by decide)

theorem isSpace_eq_contains (c : Byte) :
    isSpace c = ([0x09, 0x0A, 0x0B, 0x0C, 0x0D, 0x20, 0xA0] : List Byte).contains c := by
  simp [isSpace, Bool.or_assoc, Bool.beq_eq_decide_eq]

/-- The characters of HEX mode with the whitespace set of R81 written out. -/
theorem hexChars_eq (vs : List Word) :
    hexChars vs = (vs.map fun v => v.extractLsb' 0 8).filter fun c =>
      !([0x09, 0x0A, 0x0B, 0x0C, 0x0D, 0x20, 0xA0] : List Byte).contains c := by
  simp only [hexChars, map_slotByte, isSpace_eq_contains]

theorem hexChars_length (vs : List Word) :
    (hexChars vs).length = vs.length - (vs.map slotByte).countP isSpace := by
  have hsplit := List.length_eq_countP_add_countP isSpace (l := vs.map slotByte)
  rw [List.length_map] at hsplit
  simp only [hexChars, ← List.countP_eq_length_filter, hsplit]
  simp

theorem hexval_eq_some_iff (c x : Byte) : hexval c = some x ↔
    (0x30 ≤ c.toNat ∧ c.toNat ≤ 0x39 ∧ x.toNat = c.toNat - 0x30) ∨
    (0x41 ≤ c.toNat ∧ c.toNat ≤ 0x46 ∧ x.toNat = c.toNat - 0x41 + 10) ∨
    (0x61 ≤ c.toNat ∧ c.toNat ≤ 0x66 ∧ x.toNat = c.toNat - 0x61 + 10) := by
  unfold hexval
  split_ifs with hdecimal hupper hlower
  · rw [Option.some.injEq]; bv_omega
  · rw [Option.some.injEq]; bv_omega
  · rw [Option.some.injEq]; bv_omega
  · rw [false_iff]; omega

theorem any_outOfRange_iff : vs.any outOfRange = true ↔ ∃ v ∈ vs, v.toInt < 0 ∨ 255 < v.toInt := by
  simp [outOfRange]

/-! ### The decoders on the slots they read (R80, R83, R84) -/

theorem execInBytes_of_slots (hw : s.engine = some w) (hvs : SlotsHold s vs) :
    execInBytes s = .next (s.setFrame w (vs.map slotByte)) := by
  rw [execInBytes, withRunning_some _ hw, withInputSlots_holds _ hvs]

theorem execInHex_of_odd (hw : s.engine = some w) (hvs : SlotsHold s vs) (hodd : (hexChars vs).length % 2 = 1) :
    execInHex s = .next (s.failWith w.op .inputOddLength) := by
  rw [execInHex, withRunning_some _ hw, withInputSlots_holds _ hvs, if_pos hodd, failCommand_running _ hw]

theorem execInHex_of_badDigit (hw : s.engine = some w) (hvs : SlotsHold s vs)
    (heven : (hexChars vs).length % 2 = 0) (hbad : ∃ c ∈ hexChars vs, hexval c = none) :
    execInHex s = .next (s.failWith w.op .inputBadDigit) := by
  rw [execInHex, withRunning_some _ hw, withInputSlots_holds _ hvs, if_neg (by omega), hexvals_none hbad]
  exact failCommand_running _ hw

theorem execInHex_of_digits {ds : List Byte} (hw : s.engine = some w) (hvs : SlotsHold s vs)
    (heven : (hexChars vs).length % 2 = 0) (hds : hexvals (hexChars vs) = some ds) :
    execInHex s = .next (s.setFrame w (pairDigits ds)) := by
  rw [execInHex, withRunning_some _ hw, withInputSlots_holds _ hvs, if_neg (by omega), hds]

theorem execInWords_of_outOfRange (hw : s.engine = some w) (hvs : SlotsHold s vs)
    (hout : vs.any outOfRange = true) : execInWords s = .next (s.failWith w.op .inputRange) := by
  rw [execInWords, withRunning_some _ hw, withInputSlots_holds _ hvs, if_pos hout, failCommand_running _ hw]

theorem execInWords_of_inRange (hw : s.engine = some w) (hvs : SlotsHold s vs)
    (hin : ¬ vs.any outOfRange = true) : execInWords s = .next (s.setFrame w (vs.map slotByte)) := by
  rw [execInWords, withRunning_some _ hw, withInputSlots_holds _ hvs, if_neg hin]

/-! ### The frame a decoder fixes (R87) -/

/-- A decoder that answers a next state ran on the slots that IN_LEN counts, no more than P_IN_DEPTH (R79). -/
theorem decoder_next {n : BitVec 16} {k : Working → List Word → Result}
    (h : withRunning s (fun w => withInputSlots s (k w)) = .next t) (hlen : s.inLen = some n)
    (hslots : inputSlots s.mem 0 n.toNat = some vs) :
    vs.length = n.toNat ∧ n.toNat ≤ s.params.inDepth ∧ ∃ w, k w vs = .next t := by
  obtain ⟨w, -, hread⟩ := withRunning_next h
  obtain ⟨n', vs', hlen', hdepth, hslots', hk⟩ := withInputSlots_next hread
  cases hlen.symm.trans hlen'
  cases hslots.symm.trans hslots'
  exact ⟨(inputSlots_some hslots).1, hdepth, w, hk⟩

theorem failCommand_engine {c : StatusCode} (h : failCommand c s = .next t) : t.engine = none := by
  obtain ⟨w, -, rfl⟩ := failCommand_next h
  exact failWith_engine s w.op c

theorem execInBytes_frame_length {n : BitVec 16} (h : execInBytes s = .next t) (hlen : s.inLen = some n)
    (hslots : inputSlots s.mem 0 n.toNat = some vs) (hw : t.engine = some w) :
    w.frame.length = n.toNat ∧ n.toNat ≤ s.params.inDepth := by
  rw [execInBytes] at h
  obtain ⟨hvs, hdepth, w₀, hk⟩ := decoder_next h hlen hslots
  cases hk
  cases hw
  exact ⟨by simp [hvs], hdepth⟩

theorem execInWords_frame_length {n : BitVec 16} (h : execInWords s = .next t) (hlen : s.inLen = some n)
    (hslots : inputSlots s.mem 0 n.toNat = some vs) (hw : t.engine = some w) :
    w.frame.length = n.toNat ∧ n.toNat ≤ s.params.inDepth := by
  rw [execInWords] at h
  obtain ⟨hvs, hdepth, w₀, hk⟩ := decoder_next h hlen hslots
  split at hk
  case isTrue => cases hw.symm.trans (failCommand_engine hk)
  case isFalse =>
    cases hk
    cases hw
    exact ⟨by simp [hvs], hdepth⟩

theorem execInHex_frame_length {n : BitVec 16} (h : execInHex s = .next t) (hlen : s.inLen = some n)
    (hslots : inputSlots s.mem 0 n.toNat = some vs) (hw : t.engine = some w) :
    w.frame.length = (n.toNat - (vs.map slotByte).countP isSpace) / 2 ∧ n.toNat ≤ s.params.inDepth := by
  rw [execInHex] at h
  obtain ⟨hvs, hdepth, w₀, hk⟩ := decoder_next h hlen hslots
  split at hk
  case isTrue => cases hw.symm.trans (failCommand_engine hk)
  case isFalse heven =>
    cases hds : hexvals (hexChars vs) with
    | none =>
      rw [hds] at hk
      cases hw.symm.trans (failCommand_engine hk)
    | some ds =>
      rw [hds] at hk
      cases hk
      cases hw
      have hcount : ds.length = (hexChars vs).length := hexvals_length hds
      refine ⟨?_, hdepth⟩
      rw [← hvs, ← hexChars_length, ← hcount]
      exact (pairDigits_spec ds (by omega)).1

/-! ### An ingress stage that stops the command (R79, R85, R140) -/

/-- Where the ingress stage does not go on, its answer is that of the command. -/
theorem exec_of_ingress_stops {i : Instr} {r : Result} (hi : i = .decodeFrame ∨ i = .crcCheck)
    (hin : ∀ op, ingress (s.beginCommand op) = r) (hstop : ∀ k, r.andThen k = r) : exec i s = r := by
  rcases hi with rfl | rfl
  · show execDecodeFrame s = r
    simp only [execDecodeFrame, hin, hstop]
  · show execCrcCheck s = r
    simp only [execCrcCheck, hin, hstop]

theorem ingress_of_noMode (h : s.inMode = none) : ingress s = .fault .inputUnwritten := by
  rw [ingress, h]

theorem ingress_of_reserved (hw : s.engine = some w) (hm : s.inMode = some 3) :
    ingress s = .next (s.failWith w.op .inputUnsupported) :=
  (ingress_of_mode hm).trans (failCommand_running _ hw)

/-- Every decoder but IN_RESERVED begins with the checks of IN_LEN and IN_BUF (R79). -/
theorem ingress_of_slots_stop {m : BitVec 2} {r : Result} (hw : s.engine = some w) (hm : s.inMode = some m)
    (hne : m ≠ 3) (hstop : ∀ k, withInputSlots s k = r) : ingress s = r := by
  rw [ingress_of_mode hm]
  rcases bitVec2_cases m with rfl | rfl | rfl | rfl
  · exact (withRunning_some _ hw).trans (hstop _)
  · exact (withRunning_some _ hw).trans (hstop _)
  · exact (withRunning_some _ hw).trans (hstop _)
  · exact absurd rfl hne

theorem withInputSlots_of_noLen (h : s.inLen = none) (k : List Word → Result) :
    withInputSlots s k = .fault .inputUnwritten := by
  rw [withInputSlots, h]

theorem withInputSlots_of_tooLarge {n : BitVec 16} (h : s.inLen = some n) (hn : s.params.inDepth < n.toNat)
    (k : List Word → Result) : withInputSlots s k = .refused .inLenTooLarge := by
  rw [withInputSlots, h]
  exact if_pos hn

theorem withInputSlots_of_noElement {n : BitVec 16} {i : Nat} (h : s.inLen = some n)
    (hn : n.toNat ≤ s.params.inDepth) (hi : i < n.toNat) (hnone : s.mem.read (inBufOffset i) = none)
    (k : List Word → Result) : withInputSlots s k = .fault .inputUnwritten := by
  have hslots : inputSlots s.mem 0 n.toNat = none := inputSlots_none hi (by rwa [Nat.zero_add])
  simp only [withInputSlots, h, hslots]
  exact if_neg (by omega)

/-- Where the checks of IN_LEN and IN_BUF stop with a fault or a refusal, so does the command (R137, R138, R140). -/
theorem exec_of_slots_stop {i : Instr} {m : BitVec 2} {r : Result} (hi : i = .decodeFrame ∨ i = .crcCheck)
    (hm : s.inMode = some m) (hne : m ≠ 3) (hslots : ∀ op k, withInputSlots (s.beginCommand op) k = r)
    (hstop : ∀ k, r.andThen k = r) : exec i s = r :=
  exec_of_ingress_stops hi (fun op => ingress_of_slots_stop (beginCommand_engine s op) hm hne (hslots op)) hstop

/-- Starting a command gives no cell a value (R98). -/
theorem read_beginCommand_of_none {o : Nat} (op : CmdOp) (h : s.mem.read o = none) :
    (s.beginCommand op).mem.read o = none := by
  rw [beginCommand_mem, Memory.read_clear, h, ite_self]

/-! ### The outputs depend on the frame alone (R86) -/

/-- The same words written to two memories leave alike every cell that read alike. -/
theorem Memory.read_writeWords_congr {m m' : Memory} {p : Nat} (o : Nat) (ws : List Word)
    (h : m.read p = m'.read p) : (m.writeWords o ws).read p = (m'.writeWords o ws).read p := by
  induction ws generalizing m m' o with
  | nil => exact h
  | cons v rest ih => exact ih _ (by rw [Memory.read_write, Memory.read_write, h])

/-- What a command leaves in the output windows is its frame's and its entries' (R98). -/
theorem read_outputMemory_congr (m m' : Memory) (f : List Byte) (es : List Entry) {o : Nat}
    (ho : inOutputWindow o = true) : (outputMemory m f es).read o = (outputMemory m' f es).read o := by
  have hclear : (m.clear inOutputWindow).read o = (m'.clear inOutputWindow).read o := by
    rw [Memory.read_clear, Memory.read_clear, if_pos ho, if_pos ho]
  exact Memory.read_writeWords_congr _ _ (Memory.read_writeWords_congr _ _ hclear)

theorem decodeOutcome_sameOutputs (s s' : State) (f : List Byte)
    (r : Except StatusCode (List Entry × ExcInfo)) :
    SameOutputs (decodeOutcome s f r) (decodeOutcome s' f r) := by
  cases r with
  | error c =>
    exact ⟨rfl, rfl, rfl, rfl, rfl, rfl, rfl, rfl, fun _ ho => read_outputMemory_congr s.mem s'.mem [] [] ho⟩
  | ok r =>
    exact ⟨rfl, rfl, rfl, rfl, rfl, rfl, rfl, rfl, fun _ ho => read_outputMemory_congr s.mem s'.mem f r.1 ho⟩

theorem crcCheckOutcome_sameOutputs (s s' : State) (f : List Byte) :
    SameOutputs (crcCheckOutcome s f) (crcCheckOutcome s' f) := by
  have hmem : ∀ o, inOutputWindow o = true →
      (outputMemory s.mem f []).read o = (outputMemory s'.mem f []).read o :=
    fun _ => read_outputMemory_congr s.mem s'.mem f []
  unfold crcCheckOutcome
  simp only
  split_ifs
  · exact ⟨rfl, rfl, rfl, rfl, rfl, rfl, rfl, rfl, hmem⟩
  · exact ⟨rfl, rfl, rfl, rfl, rfl, rfl, rfl, rfl, hmem⟩
  · exact ⟨rfl, rfl, rfl, rfl, rfl, rfl, rfl, rfl, hmem⟩

/-- The decode of a frame gives the same outputs in any two blocks of the same parameters (R86). -/
theorem decodeReference_sameOutputs {s s' : State} (f : List Byte) (hp : s.params = s'.params) :
    SameOutputs (decodeOutcome s f (decodeReference s.params.regTable f))
      (decodeOutcome s' f (decodeReference s'.params.regTable f)) := by
  rw [hp]
  exact decodeOutcome_sameOutputs s s' f _

theorem exec_decodeFrame_of_holdsFrame {f : List Byte} (h : HoldsFrame s f) :
    exec .decodeFrame s = .next (decodeOutcome s f (decodeReference s.params.regTable f)) :=
  execDecodeFrame_of_frame (ingress_beginCommand _ h)

theorem exec_crcCheck_of_holdsFrame {f : List Byte} (h : HoldsFrame s f) :
    exec .crcCheck s = .next (crcCheckOutcome s f) :=
  execCrcCheck_of_frame (ingress_beginCommand _ h)

end Sys2Proof.Machine

open Sys2Proof Sys2Proof.Machine

/-- Settles O22: the digits `hexvals` gives have the values of their characters, and `pairDigits` joins them. -/
theorem inHexPairsTheDigits : Obligations.InHexPairsTheDigits := by
  refine ⟨hexval_eq_some_iff, fun s w vs hw hvs => ?_⟩
  simp only [← hexChars_eq]
  refine ⟨execInHex_of_odd hw hvs, execInHex_of_badDigit hw hvs, fun heven hgood => ?digits⟩
  obtain ⟨ds, hds, hcount, hvalue⟩ := hexvals_some hgood
  obtain ⟨hhalf, hpair⟩ := pairDigits_spec ds (by omega)
  refine ⟨pairDigits ds, execInHex_of_digits hw hvs heven hds, by rw [hhalf, hcount], ?_⟩
  intro m h l x y hh hl hx hy
  exact hpair m x y (hvalue _ h x hh hx) (hvalue _ l y hl hy)

/-- Settles O23. -/
theorem inWordsChecksTheRange : Obligations.InWordsChecksTheRange := by
  intro s w vs hw hvs
  refine ⟨fun hout => execInWords_of_outOfRange hw hvs (any_outOfRange_iff.2 hout), fun hin => ?_⟩
  have hnone : ¬ vs.any outOfRange = true := fun hany => by
    obtain ⟨v, hv, hout⟩ := any_outOfRange_iff.1 hany
    have := hin v hv
    omega
  rw [← map_slotByte]
  exact execInWords_of_inRange hw hvs hnone

/-- Settles O25: starting the command leaves what the checks read as it was, and no stage follows a fault or a
refusal. -/
theorem missingInputsStopTheCommand : Obligations.MissingInputsStopTheCommand := by
  intro s i hi
  refine ⟨fun hm => exec_of_ingress_stops hi (fun _ => ingress_of_noMode hm) fun _ => rfl, fun m hm hne => ?_⟩
  refine ⟨fun hlen => ?noLen, fun n hlen => ⟨fun hn => ?tooLarge, fun hn ⟨k, hk, hnone⟩ => ?noElement⟩⟩
  case noLen => exact exec_of_slots_stop hi hm hne (fun _ => withInputSlots_of_noLen hlen) fun _ => rfl
  case tooLarge => exact exec_of_slots_stop hi hm hne (fun _ => withInputSlots_of_tooLarge hlen hn) fun _ => rfl
  case noElement =>
    exact exec_of_slots_stop hi hm hne
      (fun op => withInputSlots_of_noElement hlen hn hk (read_beginCommand_of_none op hnone)) fun _ => rfl

/-- Settles O26: the frame is all that the encodings hand on, and the outputs follow from it. -/
theorem inputEncodingsAreEquivalent : Obligations.InputEncodingsAreEquivalent := by
  intro bs s1 s2 s3 h12 h23 hbytes hhex hwords
  have h1 : HoldsFrame s1 bs := .inl hbytes
  have h2 : HoldsFrame s2 bs := .inr (.inl hhex)
  have h3 : HoldsFrame s3 bs := .inr (.inr hwords)
  refine ⟨fun op s hs => ?frame, fun i hi => ?outputs⟩
  case frame =>
    simp only [List.mem_cons, List.not_mem_nil, or_false] at hs
    rcases hs with rfl | rfl | rfl
    · exact ingress_beginCommand op h1
    · exact ingress_beginCommand op h2
    · exact ingress_beginCommand op h3
  case outputs =>
    rcases hi with rfl | rfl
    · exact ⟨_, _, _, exec_decodeFrame_of_holdsFrame h1, exec_decodeFrame_of_holdsFrame h2,
        exec_decodeFrame_of_holdsFrame h3, decodeReference_sameOutputs bs h12, decodeReference_sameOutputs bs h23⟩
    · exact ⟨_, _, _, exec_crcCheck_of_holdsFrame h1, exec_crcCheck_of_holdsFrame h2,
        exec_crcCheck_of_holdsFrame h3, crcCheckOutcome_sameOutputs s1 s2 bs, crcCheckOutcome_sameOutputs s2 s3 bs⟩

/-- Settles O27. -/
theorem frameLengthIsBounded : Obligations.FrameLengthIsBounded := by
  intro s t n vs w hlen hslots hw
  refine ⟨fun h => ?bytes, fun h => ?words, fun h => ?hex⟩
  case bytes =>
    obtain ⟨hframe, hdepth⟩ := execInBytes_frame_length h hlen hslots hw
    exact ⟨hframe, hframe ▸ hdepth⟩
  case words =>
    obtain ⟨hframe, hdepth⟩ := execInWords_frame_length h hlen hslots hw
    exact ⟨hframe, hframe ▸ hdepth⟩
  case hex =>
    obtain ⟨hframe, hdepth⟩ := execInHex_frame_length h hlen hslots hw
    exact ⟨hframe, by omega, by omega⟩

/-- Settles O21. -/
theorem inBytesTakesTheLowBytes : Obligations.InBytesTakesTheLowBytes := by
  intro s w vs hw hvs
  rw [← map_slotByte]
  exact execInBytes_of_slots hw hvs

/-- Settles O24: nothing was set before the failure, so every output holds NONE after it. -/
theorem reservedModeFailsUnsupported : Obligations.ReservedModeFailsUnsupported := by
  intro s
  refine ⟨fun w hw => failCommand_running _ hw, fun hm => ?_⟩
  have hstop : ∀ i, i = .decodeFrame ∨ i = .crcCheck → exec i s = .next (s.failEmpty .inputUnsupported) :=
    fun i hi => exec_of_ingress_stops hi
      (fun op => (ingress_of_reserved (beginCommand_engine s op) hm).trans (congrArg _ (failWith_begun s op _ _)))
      fun k => andThen_ended k rfl
  exact ⟨hstop _ (.inl rfl), hstop _ (.inr rfl)⟩

end

section
/-! PROOFS about the CRC checker (41_crc.md R88 to R97): `CrcBit` loses nothing of the accumulator, so a frame passes
exactly when the byte step over all of it ends with zero, and a frame with one byte changed ends elsewhere. -/

namespace Sys2Proof.Machine

/-! ### The byte step is injective (R89, R90) -/

/-- The polynomial sets the bit that the shift leaves clear, so the result tells which case of R89 was taken. -/
theorem crcBit_getLsbD_15 (a : Half) : (crcBit a).getLsbD 15 = a.getLsbD 0 := by
  rw [crcBit]
  split
  case isTrue hodd => simp [hodd]
  case isFalse heven => simpa using heven

theorem crcBit_injective : Function.Injective crcBit := by
  intro a b h
  have hlow : a.getLsbD 0 = b.getLsbD 0 := by rw [← crcBit_getLsbD_15, ← crcBit_getLsbD_15, h]
  have hshift : a >>> 1 = b >>> 1 := by
    rw [crcBit, crcBit, hlow] at h
    split at h
    case isTrue => exact (BitVec.xor_left_inj _).1 h
    case isFalse => exact h
  refine BitVec.eq_of_getLsbD_eq fun i _ => ?_
  cases i with
  | zero => exact hlow
  | succ i => simpa [BitVec.getLsbD_ushiftRight, Nat.add_comm] using congrArg (·.getLsbD i) hshift

theorem crcBits_injective (n : Nat) : Function.Injective (crcBits n) := by
  induction n with
  | zero => exact Function.injective_id
  | succ n ih => exact ih.comp crcBit_injective

theorem crcByte_injective_acc (b : Byte) : Function.Injective (crcByte · b) :=
  fun _ _ h => (BitVec.xor_left_inj _).1 (crcBits_injective 8 h)

theorem crcByte_injective_byte (acc : Half) : Function.Injective (crcByte acc) := by
  intro b b' h
  have hwide : b.setWidth 16 = b'.setWidth 16 := (BitVec.xor_right_inj _).1 (crcBits_injective 8 h)
  simpa using congrArg (BitVec.setWidth 8) hwide

@[simp] theorem crcBytes_nil (acc : Half) : crcBytes acc [] = acc := rfl

@[simp] theorem crcBytes_cons (acc : Half) (b : Byte) (bs : List Byte) :
    crcBytes acc (b :: bs) = crcBytes (crcByte acc b) bs := rfl

@[simp] theorem crcBytes_append (acc : Half) (bs cs : List Byte) :
    crcBytes acc (bs ++ cs) = crcBytes (crcBytes acc bs) cs := List.foldl_append

theorem crcBytes_injective_acc (bs : List Byte) : Function.Injective (crcBytes · bs) := by
  induction bs with
  | nil => exact Function.injective_id
  | cons b rest ih => exact ih.comp (crcByte_injective_acc b)

/-- The accumulators of two sequences that differ in one byte part there and never meet again. -/
theorem crcBytes_ne_of_one_byte {b b' : Byte} (h : b ≠ b') (acc : Half) (pre post : List Byte) :
    crcBytes acc (pre ++ b :: post) ≠ crcBytes acc (pre ++ b' :: post) := by
  simp only [crcBytes_append, crcBytes_cons]
  exact fun heq => h (crcByte_injective_byte _ (crcBytes_injective_acc post heq))

/-! ### The residue (R95, R97) -/

/-- While the bits that leave are 0, `CrcBit` only shifts (R89). -/
theorem crcBits_of_low_zero {n : Nat} {acc : Half} (h : ∀ i < n, acc.getLsbD i = false) :
    crcBits n acc = acc >>> n := by
  induction n generalizing acc with
  | zero => simp [crcBits]
  | succ n ih =>
    have hbit : crcBit acc = acc >>> 1 := by rw [crcBit, h 0 (by omega)]; rfl
    rw [crcBits, hbit, ih fun i hi => by simpa using h (1 + i) (by omega), ← BitVec.shiftRight_add, Nat.add_comm]

/-- The checksum's low byte moves the high half of the accumulator down. -/
theorem crcByte_lowByte (c : Half) : crcByte c (c.extractLsb' 0 8) = (c.extractLsb' 8 8).setWidth 16 := by
  rw [crcByte, crcBits_of_low_zero fun i hi => by simp [hi, show i < 16 by omega]]
  refine BitVec.eq_of_getLsbD_eq fun i hi => ?_
  by_cases h8 : i < 8
  · simp [h8, hi]
  · simpa [h8, hi] using BitVec.getLsbD_of_ge c (8 + i) (by omega)

theorem crcByte_self (b : Byte) : crcByte (b.setWidth 16) b = 0 := by
  rw [crcByte, BitVec.xor_self, crcBits_of_low_zero (by simp)]
  rfl

/-- A checksum takes the accumulator to zero exactly when it is the accumulator (R97). -/
theorem crcBytes_crcTail_eq_zero_iff (c r : Half) : crcBytes c (crcTail r) = 0 ↔ c = r := by
  have hself : crcBytes r (crcTail r) = 0 := by
    rw [crcTail, crcBytes_cons, crcByte_lowByte, crcBytes_cons, crcByte_self, crcBytes_nil]
  exact ⟨fun h => crcBytes_injective_acc (crcTail r) (h.trans hself.symm), fun h => h ▸ hself⟩

/-! ### A frame is its body and its checksum (R42, R61, R92) -/

theorem crcTail_joinBytes (hi lo : Byte) : crcTail (joinBytes hi lo) = [lo, hi] := by
  rw [crcTail, joinBytes, BitVec.extractLsb'_append_eq_of_add_le (by decide),
    BitVec.extractLsb'_append_eq_of_le (by decide), BitVec.extractLsb'_eq_self, BitVec.extractLsb'_eq_self]

theorem joinBytes_extractLsb' (c : Half) : joinBytes (c.extractLsb' 8 8) (c.extractLsb' 0 8) = c :=
  (BitVec.extractLsb'_append_extractLsb'_eq_extractLsb' (by decide)).trans BitVec.extractLsb'_eq_self

theorem frameBody_append_crcTail {f : List Byte} (h : 2 ≤ f.length) :
    frameBody f ++ crcTail (receivedCrc f) = f := by
  have hlast : f.drop (f.length - 2) = crcTail (receivedCrc f) := by
    rw [receivedCrc, crcTail_joinBytes, List.drop_eq_getElem_cons (by omega), List.drop_eq_getElem_cons (by omega),
      List.drop_of_length_le (by omega), List.getD_eq_getElem _ _ (by omega), List.getD_eq_getElem _ _ (by omega)]
    simp only [show f.length - 2 + 1 = f.length - 1 by omega]
  rw [frameBody, ← hlast, List.take_append_drop]

@[simp] theorem length_crcTail (c : Half) : (crcTail c).length = 2 := rfl

theorem crcCalc_append_crcTail (body : List Byte) (c : Half) : crcCalc (body ++ crcTail c) = crcBytes 0xFFFF body := by
  simp [crcCalc, frameBody]

theorem receivedCrc_append_crcTail (body : List Byte) (c : Half) : receivedCrc (body ++ crcTail c) = c := by
  simp [receivedCrc, crcTail, joinBytes_extractLsb']

/-- A frame passes exactly when the byte step over all of it ends with zero (R93, R97). -/
theorem crcBytes_eq_zero_iff {f : List Byte} (h : 2 ≤ f.length) :
    crcBytes 0xFFFF f = 0 ↔ crcCalc f = receivedCrc f := by
  have hsplit : crcBytes 0xFFFF f = crcBytes (crcCalc f) (crcTail (receivedCrc f)) := by
    rw [crcCalc, ← crcBytes_append, frameBody_append_crcTail h]
  rw [hsplit, crcBytes_crcTail_eq_zero_iff]

/-! ### A flipped bit (R96) -/

@[simp] theorem length_flipBit (f : List Byte) (i j : Nat) : (flipBit f i j).length = f.length :=
  List.length_modify ..

theorem xor_bit_ne_self (b : Byte) {j : Nat} (hj : j < 8) : b ^^^ (1#8 <<< j) ≠ b := by
  intro h
  simpa [hj] using congrArg (·.getLsbD j) h

/-- A flipped bit changes one byte and leaves those around it (R96). -/
theorem flipBit_changes_one_byte {f : List Byte} {i j : Nat} (hi : i < f.length) (hj : j < 8) :
    ∃ pre b b' post, b' ≠ b ∧ f = pre ++ b :: post ∧ flipBit f i j = pre ++ b' :: post := by
  refine ⟨f.take i, f[i], _, f.drop (i + 1), xor_bit_ne_self f[i] hj, ?_, List.modify_eq_take_cons_drop hi⟩
  rw [← List.drop_eq_getElem_cons hi, List.take_append_drop]

/-- No frame that one flipped bit makes of a passing frame passes (R96). -/
theorem crcCalc_flipBit_ne {f : List Byte} {i j : Nat} (hl : 2 ≤ f.length) (hpass : crcCalc f = receivedCrc f)
    (hi : i < f.length) (hj : j < 8) : crcCalc (flipBit f i j) ≠ receivedCrc (flipBit f i j) := by
  intro hflipped
  have hzero : crcBytes 0xFFFF f = 0 := (crcBytes_eq_zero_iff hl).2 hpass
  have hzero' : crcBytes 0xFFFF (flipBit f i j) = 0 := (crcBytes_eq_zero_iff (by simpa using hl)).2 hflipped
  obtain ⟨pre, b, b', post, hne, hf, hflip⟩ := flipBit_changes_one_byte hi hj
  rw [hf] at hzero
  rw [hflip] at hzero'
  exact crcBytes_ne_of_one_byte hne _ pre post (hzero'.trans hzero.symm)

/-! ### The commands on a frame that passes or fails (R93, R99, R108) -/

variable {s : State} {f : List Byte}

theorem crcCheckOutcome_of_passes (hl : 2 ≤ f.length) (h : crcCalc f = receivedCrc f) :
    (crcCheckOutcome s f).status = .ok ∧ (crcCheckOutcome s f).crcCalc = some (zext32 (crcCalc f)) ∧
      (crcCheckOutcome s f).crcRecv = some (zext32 (receivedCrc f)) := by
  rw [crcCheckOutcome, if_neg (by omega), if_pos h]
  exact ⟨rfl, rfl, rfl⟩

theorem crcCheckOutcome_status_of_fails (hl : 2 ≤ f.length) (h : crcCalc f ≠ receivedCrc f) :
    (crcCheckOutcome s f).status = .checksum := by
  rw [crcCheckOutcome, if_neg (by omega), if_neg h]

theorem decodeReference_of_fails (tab : RegTable) (hl : 4 ≤ f.length) (h : crcCalc f ≠ receivedCrc f) :
    decodeReference tab f = .error .checksum := by
  rw [decodeReference, if_neg (by omega), if_pos h]

end Sys2Proof.Machine

open Sys2Proof Sys2Proof.Machine

/-- Settles O28. -/
theorem appendedChecksumPasses : Obligations.AppendedChecksumPasses := by
  intro s body c
  have hlen : 2 ≤ (body ++ crcTail c).length := by simp
  have hcalc : crcCalc (body ++ crcTail c) = c := crcCalc_append_crcTail body c
  have hrecv : receivedCrc (body ++ crcTail c) = c := receivedCrc_append_crcTail body c
  refine ⟨fun w hw hframe => ?stage, fun hf => ?command⟩
  case stage =>
    rw [crcVerify_running hw (hframe ▸ hlen), hframe, hcalc, hrecv]
    exact if_pos rfl
  case command =>
    have hout := crcCheckOutcome_of_passes (s := s) hlen (hcalc.trans hrecv.symm)
    rw [hcalc, hrecv] at hout
    exact ⟨_, exec_crcCheck_of_holdsFrame hf, hout⟩

/-- Settles O29: the byte step over the flipped frame ends elsewhere than over the passing one, which ends with zero. -/
theorem anySingleBitFlipFailsTheCheck : Obligations.AnySingleBitFlipFailsTheCheck := by
  intro s f i j hl hpass hi hj
  have hlen : 2 ≤ (flipBit f i j).length := by simpa using hl
  have hfail := crcCalc_flipBit_ne hl hpass hi hj
  refine ⟨fun w hw hframe => ?stage, fun hf => ⟨?check, fun hl4 => ?decode⟩⟩
  case stage =>
    rw [crcVerify_running hw (hframe ▸ hlen), hframe]
    exact ⟨_, if_neg hfail, failWith_status _ _ _, failWith_engine _ _ _⟩
  case check => exact ⟨_, exec_crcCheck_of_holdsFrame hf, crcCheckOutcome_status_of_fails hlen hfail⟩
  case decode =>
    refine ⟨_, exec_decodeFrame_of_holdsFrame hf, ?_⟩
    rw [decodeReference_of_fails _ (by simpa using hl4) hfail]
    exact failWith_status _ _ _

/-- Settles O30. -/
theorem passingFrameHasZeroResidue : Obligations.PassingFrameHasZeroResidue :=
  fun _ hl hpass => (crcBytes_eq_zero_iff hl).2 hpass

/-- Settles O31: the whole next state is `crcCheckOutcome`, whatever the mode that held the frame. -/
theorem crcCheckReportsFrameAndChecksums : Obligations.CrcCheckReportsFrameAndChecksums :=
  fun _ _ hf => exec_crcCheck_of_holdsFrame hf

end

section
/-! PROOFS about the frame handlers (42_dispatch.md R101 to R107) and the commands with fixed outcomes (R99, R109,
R110): what each handler of a running command leaves with the engine. -/

namespace Sys2Proof.Machine

variable {s : State} {w : Working}

/-! ### RHR (R104, R115) -/

/-- RHR reads the byte count, then runs the loop from position 0 (R104). -/
theorem exec_rhr_of_byteCount {bc : Byte} (h : s.engine = some w) (hbc : w.frame[2]? = some bc) :
    exec .rhr s = rhrLoop (registerCount bc) (s.setEngine { w with pos := 0, exc := .none }) := by
  have hread : frameByte w.frame 2 = some bc := hbc
  show execRhr s = _
  rw [execRhr, withRunning_some _ h, hread, withOperand_some]

theorem exec_rhr_overrun {bc : Byte} (h : s.engine = some w) (hbc : w.frame[2]? = some bc)
    (hn : 1 ≤ registerCount bc) (hshort : w.frame.length < 2 * registerCount bc + 3) :
    exec .rhr s = .next (s.failWith w.op .payloadOverrun) := by
  rw [exec_rhr_of_byteCount h hbc, rhrLoop_overrun (setEngine_engine s _) hn (by simp only; omega),
    failWith_setEngine]

/-- Positions that all lie in the frame leave their entries, and no exception; the rest of the engine that later stages
read is as it was (R104). -/
theorem exec_rhr_inside {bc : Byte} (h : s.engine = some w) (hbc : w.frame[2]? = some bc)
    (hl : registerCount bc = 0 ∨ 2 * registerCount bc + 3 ≤ w.frame.length) :
    ∃ w', exec .rhr s = .next (s.setEngine w') ∧
      w'.entries = w.entries ++ rhrEntries s.params.regTable w.frame (registerCount bc) ∧
      w'.exc = .none ∧ w'.frame = w.frame ∧ w'.op = w.op ∧ w'.acc = w.acc := by
  obtain ⟨w', hloop, hframe, hop, hacc, hexc, hentries⟩ :=
    rhrLoop_inside (n := registerCount bc) (setEngine_engine s { w with pos := 0, exc := .none })
      (by simp only; omega)
  refine ⟨w', (exec_rhr_of_byteCount h hbc).trans hloop, ?_, hexc, hframe, hop, hacc⟩
  rw [hentries, rhrEntries]
  simp

theorem rhrEntries_getElem? (tab : RegTable) (f : List Byte) {n i : Nat} (hi : i < n) :
    (rhrEntries tab f n)[i]? = some (regDecodeEntry tab (logicalAddress i) (valueAt f (3 + 2 * i)) false) := by
  simp [rhrEntries, hi]

theorem regDecodeEntry_of_none {tab : RegTable} {a : Half} (raw : Half) (write : Bool) (h : lookup tab a = none) :
    regDecodeEntry tab a raw write = unknownEntry a raw := by
  rw [regDecodeEntry, h]

/-! ### WSR (R105) -/

/-- In a frame of at least six bytes WSR reads both operands, then looks the address up. -/
theorem exec_wsr_of_length (h : s.engine = some w) (hl : 6 ≤ w.frame.length) :
    exec .wsr s =
      if lookup s.params.regTable (valueAt w.frame 2) = none then .next (s.setEngine { w with exc := .none })
      else runRegDecode (valueAt w.frame 2) (valueAt w.frame 4) true (s.setEngine { w with exc := .none }) := by
  show execWsr s = _
  rw [execWsr, withRunning_some _ h, frameBE16_of_lt (by omega), withOperand_some, frameBE16_of_lt (by omega),
    withOperand_some]
  cases lookup s.params.regTable (valueAt w.frame 2) <;> rfl

/-! ### EXC (R106) -/

/-- EXCTXT with its text numbers written out (R34). -/
theorem excTxt_id (c : Byte) :
    (excTxt c).id = if c = 1 then 28 else if c = 2 then 29 else if c = 3 then 30 else if c = 4 then 31 else 17 := by
  unfold excTxt
  split_ifs <;> rfl

theorem exec_exc_of_code {ec : Byte} (h : s.engine = some w) (hec : w.frame[2]? = some ec) :
    exec .exc s = .next (s.setEngine { w with exc := { valid := true, code := ec, text := (excTxt ec).id } }) := by
  have hread : frameByte w.frame 2 = some ec := hec
  show execExc s = _
  rw [execExc, withRunning_some _ h, hread, withOperand_some]

/-! ### REG_DECODE (R109) -/

/-- A single entry fills the first slot of ENTRY (R111). -/
theorem publishEntries_singleton (s : State) (e : Entry) :
    s.publishEntries [e] = { s with entryCount := some 1, mem := s.mem.writeWords 0x1000 (pack e) } := rfl

theorem execRegDecode_of_missing (h : s.regAddr = none ∨ s.regRaw = none) :
    execRegDecode s = .fault .inputUnwritten := by
  rw [execRegDecode]
  rcases h with h | h
  · rw [h]
  · rw [h]
    cases s.regAddr <;> rfl

end Sys2Proof.Machine

open Sys2Proof Sys2Proof.Machine

/-- Settles O50: the stages one after the other, each as the pure decoder has it. -/
theorem decodeFrameRefinesThePureDecoder : Obligations.DecodeFrameRefinesThePureDecoder :=
  fun _ _ hf => exec_decodeFrame_of_holdsFrame hf

/-- Settles O32: the loop either reads past the frame at some position or appends the entry of every position. -/
theorem rhrDecodesEveryPosition : Obligations.RhrDecodesEveryPosition :=
  fun _ _ _ hw hbc => ⟨exec_rhr_overrun hw hbc, exec_rhr_inside hw hbc⟩

/-- Settles O33: the failing reads are those of the handler's payload; the lookup splits the rest. -/
theorem wsrDecodesOneRegister : Obligations.WsrDecodesOneRegister := by
  intro s w hw a raw noExc
  refine ⟨fun hshort => ?overrun, fun hl hnone => ?undescribed, fun hl hsome => ?described⟩
  case overrun =>
    have hpayload := execWsr_carriesOut hw
    rwa [if_pos hshort] at hpayload
  case undescribed =>
    rw [exec_wsr_of_length hw hl, if_pos hnone]
    rfl
  case described =>
    rw [exec_wsr_of_length hw hl, if_neg hsome, runRegDecode_running _ _ _ (setEngine_engine s _)]
    rfl

/-- Settles O34. -/
theorem excTakesTheExceptionCode : Obligations.ExcTakesTheExceptionCode := by
  intro s w ec hw hec
  rw [exec_exc_of_code hw hec, excTxt_id]
  rfl

/-- Settles O47: position `i` of the loop gives the entry of its own address, which is UNKNOWN without a descriptor. -/
theorem unknownRegistersArePreserved : Obligations.UnknownRegistersArePreserved := by
  intro s w bc i hw hbc hl hi hnone
  obtain ⟨w', hrun, hentries, -⟩ := exec_rhr_inside hw hbc (.inr hl)
  have hentry : w'.entries[w.entries.length + i]? =
      some (unknownEntry (logicalAddress i) (valueAt w.frame (3 + 2 * i))) := by
    rw [hentries, List.getElem?_append_right (Nat.le_add_right _ _), Nat.add_sub_cancel_left,
      rhrEntries_getElem? (n := registerCount bc) _ _ hi, regDecodeEntry_of_none _ _ hnone]
  exact ⟨_, w', _, hrun, rfl, hentry, rfl, rfl, rfl, entryKey_unknownEntry _ _ _⟩

/-- Settles O48. -/
theorem reservedCommandFails : Obligations.ReservedCommandFails :=
  execCmdReserved_eq

/-- Settles O49. -/
theorem regDecodeCommandGivesOneEntry : Obligations.RegDecodeCommandGivesOneEntry := by
  refine fun s => ⟨fun a raw ha hraw => ?operands, execRegDecode_of_missing⟩
  have hrun := execRegDecode_of_operands ha hraw
  rwa [publishEntries_singleton] at hrun

/-- Settles O60: the router reads F[1] alone, and OTHER reads nothing more. -/
theorem otherCodesDecodeStructurally : Obligations.OtherCodesDecodeStructurally := by
  intro s w fc hw hfc hrhr hwsr hexc
  have hother : decodeFunc fc = .other fc := decodeFunc_of_other ⟨hrhr, hwsr, hexc⟩
  refine ⟨hother, ?_⟩
  rw [route_of_functionCode hw hfc, runHandler_eq_exec, hother, exec_other_running fc hw]
  rfl

end

section
/-! PROOFS about what a DECODE_FRAME leaves, by its frame's function code (42_dispatch.md R99 to R107, R114, R116): the
failures the pure decoder can give, the payload of each handler, and the outputs that follow from it. -/

namespace Sys2Proof.Machine

variable {tab : RegTable} {f : List Byte} {es : List Entry} {x : ExcInfo} {s t : State}

/-! ### The pure decoder, inverted -/

/-- What a frame carries, by its function code (R103 to R107). -/
inductive PayloadByCode (tab : RegTable) (f : List Byte) : List Entry → ExcInfo → Prop where
  | rhr (h : f.getD 1 0 = 0x03) : PayloadByCode tab f (rhrEntries tab f (registerCount (f.getD 2 0))) .none
  | wsr (h : f.getD 1 0 = 0x06) : PayloadByCode tab f (wsrEntries tab f) .none
  | exc (h : f.getD 1 0 = 0x83) :
      PayloadByCode tab f [] { valid := true, code := f.getD 2 0, text := (excTxt (f.getD 2 0)).id }
  | other (h : f.getD 1 0 ≠ 0x03 ∧ f.getD 1 0 ≠ 0x06 ∧ f.getD 1 0 ≠ 0x83) : PayloadByCode tab f [] .none

theorem framePayload_ok (h : framePayload tab f = .ok (es, x)) : PayloadByCode tab f es x := by
  unfold framePayload at h
  simp only at h
  split at h
  case isTrue hrhr =>
    split at h <;> cases h
    exact .rhr hrhr
  split at h
  case isTrue hwsr =>
    split at h <;> cases h
    exact .wsr hwsr
  split at h
  case isTrue hexc =>
    cases h
    exact .exc hexc
  case isFalse hrhr hwsr hexc =>
    cases h
    exact .other ⟨hrhr, hwsr, hexc⟩

theorem framePayload_of_other (h : f.getD 1 0 ≠ 0x03 ∧ f.getD 1 0 ≠ 0x06 ∧ f.getD 1 0 ≠ 0x83) :
    framePayload tab f = .ok ([], .none) := by
  obtain ⟨hrhr, hwsr, hexc⟩ := h
  simp only [framePayload, if_neg hrhr, if_neg hwsr, if_neg hexc]

/-- The handlers' only failure is the overrun (R103 to R107). -/
theorem framePayload_error {c : StatusCode} (h : framePayload tab f = .error c) : c = .payloadOverrun := by
  unfold framePayload at h
  simp only at h
  split at h
  · split at h <;> cases h
    rfl
  split at h
  · split at h <;> cases h
    rfl
  split at h <;> cases h

theorem decodeReference_of_passes (hl : 4 ≤ f.length) (hcrc : crcCalc f = receivedCrc f) :
    decodeReference tab f = framePayload tab f := by
  rw [decodeReference, if_neg (Nat.not_lt.2 hl), if_neg (not_not.2 hcrc)]

/-- A frame that decodes passed both tests, and its payload is that of its function code (R99, R100). -/
theorem decodeReference_passed (h : decodeReference tab f = .ok (es, x)) :
    4 ≤ f.length ∧ PayloadByCode tab f es x := by
  unfold decodeReference at h
  split at h
  case isTrue => cases h
  case isFalse hlong =>
    split at h
    case isTrue => cases h
    case isFalse => exact ⟨Nat.le_of_not_lt hlong, framePayload_ok h⟩

theorem decodeReference_error {c : StatusCode} (h : decodeReference tab f = .error c) :
    c ∈ [StatusCode.frameTooShort, .checksum, .payloadOverrun] := by
  unfold decodeReference at h
  split at h
  case isTrue => cases h; decide
  case isFalse =>
    split at h
    case isTrue => cases h; decide
    case isFalse => cases framePayload_error h; decide

/-! ### How DECODE_FRAME ends (R99, R135) -/

/-- The typed failures of DECODE_FRAME: those of the ingress stage, then those of the decoder (R79, R99). -/
def decodeFrameFailures : List StatusCode :=
  [StatusCode.inputUnsupported, .inputOddLength, .inputBadDigit, .inputRange] ++
    [StatusCode.frameTooShort, .checksum, .payloadOverrun]

/-- DECODE_FRAME ends with one of its failures and no output, or with the decode of a frame. -/
theorem execDecodeFrame_ends (h : execDecodeFrame s = .next t) :
    (∃ c ∈ decodeFrameFailures, t = s.failEmpty c) ∨
    ∃ f es x, f.length ≤ s.params.inDepth ∧ decodeReference s.params.regTable f = .ok (es, x) ∧
      t = decodeOutcome s f (.ok (es, x)) := by
  rcases execDecodeFrame_next h with ⟨c, hc, rfl⟩ | ⟨f, hf, rfl⟩
  · exact .inl ⟨c, List.mem_append_left _ hc, rfl⟩
  · cases hdec : decodeReference s.params.regTable f with
    | error c => exact .inl ⟨c, List.mem_append_right _ (decodeReference_error hdec), rfl⟩
    | ok r => exact .inr ⟨f, r.1, r.2, hf, hdec, rfl⟩

theorem ne_ok_of_mem_decodeFrameFailures {c : StatusCode} (h : c ∈ decodeFrameFailures) : c ≠ .ok := by
  rintro rfl
  revert h
  decide

/-! ### The entry count (R114) -/

theorem zext32_byte_inj {b c : Byte} (h : zext32 b = zext32 c) : b = c := by
  simpa using congrArg slotByte h

theorem zext32_byte_shiftRight_one (b : Byte) : (zext32 b >>> 1).toNat = registerCount b := by
  rw [BitVec.toNat_ushiftRight, zext32, BitVec.toNat_setWidth_of_le (by decide), registerCount,
    Nat.shiftRight_eq_div_pow]

theorem rhrEntries_length (tab : RegTable) (f : List Byte) (n : Nat) : (rhrEntries tab f n).length = n := by
  simp [rhrEntries]

/-- The count of a 0x03 frame is its byte count halved. -/
theorem countWord_rhrEntries (tab : RegTable) (f : List Byte) (b : Byte) :
    countWord (rhrEntries tab f (registerCount b)) = zext32 b >>> 1 := by
  have hb := registerCount_lt b
  apply BitVec.eq_of_toNat_eq
  rw [countWord_toNat (by rw [rhrEntries_length]; omega), rhrEntries_length, zext32_byte_shiftRight_one]

theorem countWord_wsrEntries (tab : RegTable) (f : List Byte) :
    countWord (wsrEntries tab f) = 0 ∨ countWord (wsrEntries tab f) = 1 := by
  unfold wsrEntries
  split
  · exact .inl rfl
  · exact .inr rfl

/-- The count register of a decoded frame, by its function code. -/
theorem PayloadByCode.countWord_by_code (h : PayloadByCode tab f es x) :
    (f.getD 1 0 = 0x03 → countWord es = zext32 (f.getD 2 0) >>> 1) ∧
    (f.getD 1 0 = 0x06 → countWord es = 0 ∨ countWord es = 1) ∧
    (f.getD 1 0 ≠ 0x03 → f.getD 1 0 ≠ 0x06 → countWord es = 0) := by
  cases h with
  | rhr hfc =>
    exact ⟨fun _ => countWord_rhrEntries tab f _, fun h6 => absurd (hfc.symm.trans h6) (by decide),
      fun h3 _ => absurd hfc h3⟩
  | wsr hfc =>
    exact ⟨fun h3 => absurd (h3.symm.trans hfc) (by decide), fun _ => countWord_wsrEntries tab f,
      fun _ h6 => absurd hfc h6⟩
  | exc hfc =>
    exact ⟨fun h3 => absurd (h3.symm.trans hfc) (by decide), fun h6 => absurd (h6.symm.trans hfc) (by decide),
      fun _ _ => rfl⟩
  | other hfc => exact ⟨fun h3 => absurd h3 hfc.1, fun h6 => absurd h6 hfc.2.1, fun _ _ => rfl⟩

/-- A byte of the frame stands widened in its slot of FRAME_BUF. -/
theorem CommandLeaves.read_frameBuf_of_lt (h : CommandLeaves s t f es) {k : Nat} (hk : k < f.length) :
    t.mem.read (frameBufOffset k) = some (zext32 (f.getD k 0)) := by
  rw [h.read_frameBuf, List.getElem?_eq_getElem hk, List.getD_eq_getElem _ _ hk, Option.map_some]

/-! ### Frames with no payload (R107, R116) -/

/-- Without entries the ENTRY window holds NONE. -/
theorem read_outputMemory_of_noEntries (m : Memory) (f : List Byte) {o : Nat} (ho : inEntryWindow o = true) :
    (outputMemory m f []).read o = none := by
  show ((m.clear inOutputWindow).writeWords (frameBufOffset 0) (frameWords f)).read o = none
  rw [← clear_entryWindow_publishedFrame, Memory.read_clear, if_pos ho]

theorem getD_one_ne {c : Byte} (hl : 4 ≤ f.length) (h : f[1]? ≠ some c) : f.getD 1 0 ≠ c := by
  rw [List.getElem?_eq_getElem (by omega)] at h
  rw [List.getD_eq_getElem _ _ (by omega)]
  exact fun heq => h (congrArg some heq)

/-- A frame of another code that passes the checks ends DECODE_FRAME with its header alone. -/
theorem exec_decodeFrame_of_other (hf : HoldsFrame s f) (hl : 4 ≤ f.length) (hcrc : crcCalc f = receivedCrc f)
    (hrhr : f[1]? ≠ some 0x03) (hwsr : f[1]? ≠ some 0x06) (hexc : f[1]? ≠ some 0x83) :
    exec .decodeFrame s = .next (decodeOutcome s f (.ok ([], .none))) := by
  rw [exec_decodeFrame_of_holdsFrame hf, decodeReference_of_passes hl hcrc,
    framePayload_of_other ⟨getD_one_ne hl hrhr, getD_one_ne hl hwsr, getD_one_ne hl hexc⟩]

theorem getElem?_of_take_eq {f g : List Byte} {n k : Nat} (h : f.take n = g.take n) (hk : k < n) :
    f[k]? = g[k]? := by
  rw [← List.getElem?_take_of_lt hk, h, List.getElem?_take_of_lt hk]

theorem getD_of_take_eq {f g : List Byte} {n k : Nat} (h : f.take n = g.take n) (hk : k < n) :
    f.getD k 0 = g.getD k 0 := by
  rw [List.getD_eq_getElem?_getD, List.getD_eq_getElem?_getD, getElem?_of_take_eq h hk]

end Sys2Proof.Machine

open Sys2Proof Sys2Proof.Machine

/-- Settles O52: every failure of DECODE_FRAME is `failEmpty`, and the decode of a frame ends OK. -/
theorem failedDecodeFrameLeavesNothing : Obligations.FailedDecodeFrameLeavesNothing := by
  intro s t h hstatus
  rcases execDecodeFrame_ends h with ⟨c, hc, rfl⟩ | ⟨f, es, x, -, -, rfl⟩
  · exact ⟨failEmpty_outputsNone s c, hc⟩
  · exact absurd rfl hstatus

/-- Settles O56: FRAME_BUF holds the header bytes the payload was selected by. -/
theorem entryCountFollowsTheFunctionCode : Obligations.EntryCountFollowsTheFunctionCode := by
  intro s t h hok
  rcases execDecodeFrame_ends h with ⟨c, hc, rfl⟩ | ⟨f, es, x, hf, hdec, rfl⟩
  · exact absurd hok (ne_ok_of_mem_decodeFrameFailures hc)
  obtain ⟨hl, hpayload⟩ := decodeReference_passed hdec
  have leaves := commandLeaves_decoded hf hdec
  have hfit : es.length < 128 := leaves.entries_fit
  have hcount : (countWord es).toNat = es.length := countWord_toNat (by omega)
  obtain ⟨hrhr, hwsr, hother⟩ := hpayload.countWord_by_code
  have hcode (c : Byte) : zext32 (f.getD 1 0) = zext32 c → f.getD 1 0 = c := zext32_byte_inj
  refine ⟨_, _, _, leaves.read_frameBuf_of_lt (k := 1) (by omega), leaves.read_frameBuf_of_lt (k := 2) (by omega),
    rfl, by omega, hcount ▸ leaves.entries_fit.le, fun h3 => hrhr (hcode 0x03 h3), fun h6 => hwsr (hcode 0x06 h6),
    fun h3 h6 => hother (fun heq => h3 (congrArg zext32 heq)) fun heq => h6 (congrArg zext32 heq)⟩

/-- Settles O57: with no entry and no exception the remaining outputs are made of the two header bytes. -/
theorem structuralDecodingIgnoresThePayload : Obligations.StructuralDecodingIgnoresThePayload := by
  intro s1 s2 f1 f2 _ hf1 hf2 hl1 hl2 hcrc1 hcrc2 htake hrhr hwsr hexc
  have hcode : f1[1]? = f2[1]? := getElem?_of_take_eq htake (by decide)
  have hslave : f1.getD 0 0 = f2.getD 0 0 := getD_of_take_eq htake (by decide)
  have hfc : f1.getD 1 0 = f2.getD 1 0 := getD_of_take_eq htake (by decide)
  refine ⟨_, _, exec_decodeFrame_of_other hf1 hl1 hcrc1 hrhr hwsr hexc,
    exec_decodeFrame_of_other hf2 hl2 hcrc2 (hcode ▸ hrhr) (hcode ▸ hwsr) (hcode ▸ hexc), rfl, rfl,
    congrArg (fun b => some (slaveWord b)) hslave, congrArg (fun b => some (funcWord b)) hfc, rfl, rfl,
    fun o ho => ?_⟩
  exact (read_outputMemory_of_noEntries s1.mem f1 ho).trans (read_outputMemory_of_noEntries s2.mem f2 ho).symm

end

section
/-! PROOFS about the canonical result (42_dispatch.md R112, 43_regdecode.md R128, R129): reading the output registers of
a decoded frame back, and rendering them. -/

namespace Sys2Proof.Machine

variable {s t : State} {f : List Byte} {es : List Entry} {x : ExcInfo}

/-! ### Texts of the ROM (R12, R33, R34) -/

/-- A text number the ROM has an entry for. -/
def InRom (n : Nat) : Prop := n < textRom.length

theorem renderId_isSome {n : Nat} (h : InRom n) (k : Nat) : (renderId n k).isSome = true := by
  rw [renderId, List.getElem?_eq_getElem h]
  rfl

theorem errTxt_inRom (r : Half) : InRom (errTxt r).id.toNat := by
  have hrom : textRom.length = 43 := rfl
  unfold errTxt InRom
  split
  · rw [hrom, TextRef.id, BitVec.toNat_ofNat]
    omega
  · decide

theorem carrierTxt_inRom (r : Half) : InRom (carrierTxt r).id.toNat := by
  unfold carrierTxt InRom
  split <;> decide

theorem cmdTxt_inRom (r : Half) : InRom (cmdTxt r).id.toNat := by
  unfold cmdTxt InRom
  repeat' split
  all_goals decide

theorem mrTxt_inRom (r : Half) : InRom (mrTxt r).id.toNat := by
  have htemplate : InRom (TextRef.tpl 27 r.toNat).id.toNat := show 27 < textRom.length by decide
  unfold mrTxt
  repeat' split
  iterate 4 · show _ < textRom.length; decide
  exact htemplate

/-- EXC.TEXT_ID names the text of the exception code (R106). -/
theorem renderId_excTxt (c : Byte) : ∃ text, renderId (excTxt c).id.toNat 0 = some text ∧
    render (excTxt c) = some text := by
  unfold excTxt
  split_ifs <;> exact ⟨_, rfl, rfl⟩

/-- FUNC.NAME_ID and FUNC.FC name the function (R102). -/
theorem renderId_fName (c : Byte) : ∃ name, renderId (fName c).id.toNat c.toNat = some name ∧
    render (fName c) = some name := by
  unfold fName
  split_ifs <;> exact ⟨_, rfl, rfl⟩

/-! ### Shapes (R129) -/

/-- An entry of a kind that shows a text has one in the ROM; GENERIC and STATUS_FLAGS show none. -/
def ShowsItsText (e : Entry) : Prop := e.kind = .generic ∨ e.kind = .statusFlags ∨ InRom e.textId.toNat

theorem knownEntry_showsItsText (b : Entry) (d : Descriptor) : ShowsItsText (knownEntry b d) := by
  unfold knownEntry
  split
  · exact .inr (.inr (errTxt_inRom _))
  split
  · exact .inr (.inl rfl)
  split
  · exact .inr (.inr (carrierTxt_inRom _))
  split
  · exact .inr (.inr (mrTxt_inRom _))
  split
  · exact .inr (.inr (cmdTxt_inRom _))
  · exact .inl rfl

theorem mergedDescription_isSome (p : Params) (d : Descriptor) {e : Entry} (h : (entryText e).isSome = true) :
    (mergedDescription p d e).isSome = true := by
  unfold mergedDescription
  split
  · exact h
  · rfl

/-- Every kind that has a descriptor has a shape (R129). -/
theorem knownShape_isSome (p : Params) (d : Descriptor) {e : Entry} (hkind : e.kind ≠ .unknown)
    (htext : ShowsItsText e) : (knownShape p d e).isSome = true := by
  have rom (hg : e.kind ≠ .generic) (hs : e.kind ≠ .statusFlags) : (entryText e).isSome = true :=
    renderId_isSome ((htext.resolve_left hg).resolve_left hs) _
  cases hk : e.kind <;> rw [hk] at hkind rom <;> simp only [knownShape, hk, Option.isSome_map]
  case generic => rfl
  case statusFlags => rfl
  case unknown => exact absurd rfl hkind
  case errorCode => exact mergedDescription_isSome p d (rom (by decide) (by decide))
  case statusCmd => exact mergedDescription_isSome p d (rom (by decide) (by decide))
  case carrierFreq => exact rom (by decide) (by decide)
  case measRange => exact rom (by decide) (by decide)

theorem entryShape_of_kind_ne_unknown (p : Params) {e : Entry} (h : e.kind ≠ .unknown) :
    entryShape p e = p.regTable[e.descIndex.toNat]?.bind fun d => knownShape p d e := by
  unfold entryShape
  split
  case h_1 hk => exact absurd hk h
  case h_2 => rfl

/-- DESC_INDEX of a decoded entry is the position of its descriptor (R30, R119). -/
theorem LegalTable.descriptor_of_knownEntry {tab : RegTable} (h : LegalTable tab) {a raw : Half} {w : Bool} {j : Nat}
    {d : Descriptor} (hl : lookup tab a = some (j, d)) :
    tab[(knownEntry (baseEntry j d a raw w) d).descIndex.toNat]? = some d := by
  have hj := h.lookup_lt hl
  have hindex : (baseEntry j d a raw w).descIndex.toNat = j := by
    rw [baseEntry, BitVec.toNat_ofNat]
    omega
  rw [knownEntry_descIndex, hindex, (lookup_some hl).1]

/-- Every entry that RegDecode makes has a shape under a legal table (R129). -/
theorem entryShape_regDecodeEntry_isSome {p : Params} (h : LegalTable p.regTable) (a raw : Half) (w : Bool) :
    (entryShape p (regDecodeEntry p.regTable a raw w)).isSome = true := by
  cases hl : lookup p.regTable a with
  | none =>
    rw [regDecodeEntry_of_none _ _ hl]
    rfl
  | some q =>
    obtain ⟨j, d⟩ := q
    have hentry : regDecodeEntry p.regTable a raw w = knownEntry (baseEntry j d a raw w) d := by
      rw [regDecodeEntry, hl]
    have hkind := knownEntry_kind_ne_unknown (baseEntry j d a raw w) d
    rw [hentry, entryShape_of_kind_ne_unknown p hkind, h.descriptor_of_knownEntry hl, Option.bind_some]
    exact knownShape_isSome p d hkind (knownEntry_showsItsText _ d)

/-- The registers map exists when every entry has a key and a shape (R112). -/
theorem registersMap_isSome {p : Params}
    (h : ∀ e ∈ es, (entryKey p.regTable e).isSome = true ∧ (entryShape p e).isSome = true) :
    ∃ regs, registersMap p es = some regs := by
  induction es with
  | nil => exact ⟨[], rfl⟩
  | cons e rest ih =>
    obtain ⟨hkey, hshape⟩ := h e List.mem_cons_self
    obtain ⟨key, hkey⟩ := Option.isSome_iff_exists.1 hkey
    obtain ⟨shape, hshape⟩ := Option.isSome_iff_exists.1 hshape
    obtain ⟨regs, hregs⟩ := ih fun e he => h e (List.mem_cons_of_mem _ he)
    exact ⟨(key, shape) :: regs, by rw [registersMap, hkey, hshape, hregs]⟩

theorem CommandLeaves.registersMap_isSome (h : CommandLeaves s t f es) (legal : LegalTable s.params.regTable) :
    ∃ regs, registersMap s.params es = some regs := by
  refine Machine.registersMap_isSome fun e he => ?_
  obtain ⟨a, raw, w, rfl⟩ := h.entries_decoded e he
  exact ⟨by rw [legal.entryKey_regDecodeEntry]; rfl, entryShape_regDecodeEntry_isSome legal a raw w⟩

/-! ### Reading the windows back (R27, R29, R112) -/

theorem frameBytesAt_eq_some {k : Nat}
    (h : ∀ i b, f[i]? = some b → readReg s (.frameBuf (k + i)) = some (zext32 b)) :
    frameBytesAt s k f.length = some f := by
  induction f generalizing k with
  | nil => rfl
  | cons b rest ih =>
    have hrest : frameBytesAt s (k + 1) rest.length = some rest :=
      ih fun i c hc => by simpa [Nat.add_assoc, Nat.add_comm 1 i] using h (i + 1) c (by simpa using hc)
    have hfirst : readReg s (.frameBuf k) = some (zext32 b) := h 0 b rfl
    simp [frameBytesAt, hfirst, hrest]

theorem entriesAt_eq_some {k : Nat} (h : ∀ i e, es[i]? = some e → entryAt s (k + i) = some e) :
    entriesAt s k es.length = some es := by
  induction es generalizing k with
  | nil => rfl
  | cons e rest ih =>
    have hrest : entriesAt s (k + 1) rest.length = some rest :=
      ih fun i c hc => by simpa [Nat.add_assoc, Nat.add_comm 1 i] using h (i + 1) c (by simpa using hc)
    have hfirst : entryAt s k = some e := h 0 e rfl
    simp [entriesAt, hfirst, hrest]

theorem CommandLeaves.frameBytesAt (h : CommandLeaves s t f es) : frameBytesAt t 0 f.length = some f :=
  frameBytesAt_eq_some fun i b hb => by
    rw [Nat.zero_add]
    exact (h.read_frameBuf i).trans (congrArg (Option.map zext32) hb)

theorem CommandLeaves.entryAt (h : CommandLeaves s t f es) {k : Nat} {e : Entry} (he : es[k]? = some e) :
    entryAt t k = some e := by
  have hk : k < entrySlots := (List.getElem?_eq_some_iff.1 he).1.trans h.entries_fit
  have word {i : Nat} (hi : i < 4) : readReg t (.entry k i) = (pack e)[i]? := by
    rw [readReg, h.read_entry hk hi, he, Option.bind_some]
  rw [Machine.entryAt, word (by decide), word (by decide), word (by decide), word (by decide)]
  exact entryWordsHoldTheWholeEntry e

theorem CommandLeaves.entriesAt (h : CommandLeaves s t f es) : entriesAt t 0 es.length = some es :=
  entriesAt_eq_some fun i e he => by
    rw [Nat.zero_add]
    exact h.entryAt he

/-! ### The header words (R24 to R27) -/

theorem slaveWord_slave (b : Byte) : (slaveWord b).extractLsb' 0 8 = b := by
  rw [slaveWord, zext32, BitVec.extractLsb'_setWidth_of_le (by decide), BitVec.extractLsb'_eq_self]

theorem funcWord_code (fc : Byte) : (funcWord fc).extractLsb' 0 8 = fc := by
  rw [funcWord, zext32, BitVec.extractLsb'_setWidth_of_le (by decide),
    BitVec.extractLsb'_append_eq_of_add_le (by decide), BitVec.extractLsb'_eq_self]

theorem funcWord_name (fc : Byte) : (funcWord fc).extractLsb' 8 8 = (fName fc).id := by
  rw [funcWord, zext32, BitVec.extractLsb'_setWidth_of_le (by decide),
    BitVec.extractLsb'_append_eq_of_le (by decide), BitVec.extractLsb'_eq_self]

theorem lenWord_length (h : f.length < 2 ^ 16) : ((lenWord f).extractLsb' 0 16).toNat = f.length := by
  rw [lenWord, zext32, BitVec.extractLsb'_setWidth_of_le (by decide), BitVec.extractLsb'_eq_self,
    BitVec.toNat_ofNat, Nat.mod_eq_of_lt h]

theorem countWord_count (h : es.length < 2 ^ 8) : ((countWord es).extractLsb' 0 8).toNat = es.length := by
  rw [countWord, zext32, BitVec.extractLsb'_setWidth_of_le (by decide), BitVec.extractLsb'_eq_self,
    BitVec.toNat_ofNat, Nat.mod_eq_of_lt h]

/-! ### `error` (R106, R112) -/

theorem errorOf_of_invalid (h : x.valid = false) : errorOf (excWord x) = some none := by
  obtain ⟨hvalid, -⟩ := excWord_fields x
  rw [errorOf, hvalid, h]
  rfl

theorem errorOf_of_valid {text : String} (h : x.valid = true) (htext : renderId x.text.toNat 0 = some text) :
    errorOf (excWord x) =
      some (some { code := x.code.toNat, description := "Modbus Error: " ++ text, modbusError := true }) := by
  have hprefix : renderId 38 0 = some "Modbus Error: " := rfl
  obtain ⟨hvalid, -, hcode, hid, -⟩ := excWord_fields x
  rw [errorOf, hvalid, h, if_pos rfl, hid, hprefix, htext, hcode]

/-- A valid exception names the text of its code (R106). -/
theorem PayloadByCode.text_of_valid {tab : RegTable} (h : PayloadByCode tab f es x) (hx : x.valid = true) :
    x.text = (excTxt x.code).id := by
  cases h with
  | exc => rfl
  | rhr | wsr | other => cases hx

/-- The `error` of a decoded frame is built from its exception fields. -/
theorem PayloadByCode.errorOf_excWord {tab : RegTable} (h : PayloadByCode tab f es x) :
    ∃ err, errorOf (excWord x) = some err ∧ (x.valid = false → err = none) ∧
      (x.valid = true → ∃ text, render (excTxt x.code) = some text ∧
        err = some { code := x.code.toNat, description := "Modbus Error: " ++ text, modbusError := true }) := by
  cases hx : x.valid with
  | false => exact ⟨none, errorOf_of_invalid hx, fun _ => rfl, fun hv => absurd hv (by decide)⟩
  | true =>
    obtain ⟨text, hid, hrender⟩ := renderId_excTxt x.code
    rw [← h.text_of_valid hx] at hid
    refine ⟨_, errorOf_of_valid hx hid, ?_, fun _ => ⟨text, hrender, rfl⟩⟩
    exact fun hv => absurd hv (by decide)

/-! ### The canonical result (R112) -/

/-- A frame that the input holds is no longer than the input buffer (R87). -/
theorem HoldsFrame.length_le (h : HoldsFrame s f) : f.length ≤ s.params.inDepth := by
  rcases h with ⟨-, vs, ⟨-, hle, -⟩, rfl⟩ | ⟨-, vs, ⟨-, hle, -⟩, hlen, -⟩ | ⟨-, -, hle, -⟩
  · simpa using hle
  · have hchars := hexChars_length vs
    omega
  · simpa using hle

/-- The outputs of a command that ended OK with a frame, its header and its entries, read back and rendered. -/
theorem CommandLeaves.canonicalResult_eq {slave fc : Byte} {name : String} {regs : List (String × Shape)}
    {err : Option ErrorInfo} (h : CommandLeaves s t f es) (hdepth : s.params.inDepth ≤ maxInDepth)
    (hstatus : t.status = .ok) (hslave : t.slaveAddr = some (slaveWord slave)) (hfunc : t.func = some (funcWord fc))
    (hexc : t.exc = some (excWord x)) (hlen : t.frameLen = some (lenWord f))
    (hcount : t.entryCount = some (countWord es)) (hname : renderId (fName fc).id.toNat fc.toNat = some name)
    (hregs : registersMap s.params es = some regs) (herr : errorOf (excWord x) = some err) :
    canonicalResult t =
      some { slaveAddress := slave.toNat, functionCode := fc.toNat, functionName := name, rawData := rawData f,
             registers := regs, error := err } := by
  have hdepth : s.params.inDepth ≤ 1024 := hdepth
  have hf := h.frame_fits
  have hes : es.length < 128 := h.entries_fit
  rw [canonicalResult, hstatus, hslave, hfunc, hexc, hlen, hcount]
  simp only
  rw [funcWord_code, funcWord_name, hname, lenWord_length (by omega), h.frameBytesAt, countWord_count (by omega),
    h.entriesAt, Option.bind_some, h.params_eq, hregs, herr, slaveWord_slave]

end Sys2Proof.Machine

open Sys2Proof Sys2Proof.Machine

/-- Settles O58: the windows and header words read back as what was decoded, and every part of it has a rendering. -/
theorem canonicalResultOfDecodeFrame : Obligations.CanonicalResultOfDecodeFrame := by
  intro s t f es x hlegal hf hdec ht
  obtain ⟨⟨-, hdepth⟩, legal⟩ := (legalParams_iff _).1 hlegal
  obtain ⟨-, hpayload⟩ := decodeReference_passed hdec
  have leaves := commandLeaves_decoded hf.length_le hdec
  have houtcome := exec_decodeFrame_of_holdsFrame hf
  rw [hdec] at houtcome
  cases houtcome.symm.trans ht
  obtain ⟨name, hname, hrender⟩ := renderId_fName (f.getD 1 0)
  obtain ⟨regs, hregs⟩ := leaves.registersMap_isSome legal
  obtain ⟨err, herr, hinvalid, hvalid⟩ := hpayload.errorOf_excWord
  exact ⟨_, name, regs, leaves.canonicalResult_eq hdepth rfl rfl rfl rfl rfl rfl hname hregs herr, hrender, hregs, rfl,
    rfl, rfl, rfl, rfl, hinvalid, hvalid⟩

end

section
/-! PROOFS about commands run on the same inputs (42_dispatch.md R113, 60_exceptions.md R143): two blocks whose input
registers agree answer a command alike, and so does a block asked again. -/

namespace Sys2Proof.Machine

variable {s s' t : State}

/-! ### Answers made alike -/

/-- Two answers to the same command: both go on, each to what `g` or `g'` makes of one value, or both stop with one
fault or one refusal. -/
inductive Alike {α : Type} (g g' : α → State) : Result → Result → Prop where
  | next (a : α) : Alike g g' (.next (g a)) (.next (g' a))
  | fault (x : Fault) : Alike g g' (.fault x) (.fault x)
  | refused (x : Refusal) : Alike g g' (.refused x) (.refused x)

/-- The same outcome of a command: the same outputs, the same fault or the same refusal (R113). -/
def SameOutcome (r r' : Result) : Prop :=
  (∀ t, r = .next t → ∃ t', r' = .next t' ∧ SameOutputs t t') ∧ (∀ x, r = .fault x → r' = .fault x) ∧
  ∀ x, r = .refused x → r' = .refused x

theorem Alike.sameOutcome {α : Type} {g g' : α → State} {r r' : Result} (h : Alike g g' r r')
    (hg : ∀ a, SameOutputs (g a) (g' a)) : SameOutcome r r' := by
  cases h with
  | next a =>
    refine ⟨?_, ?_, ?_⟩ <;> rintro _ ⟨⟩
    exact ⟨g' a, rfl, hg a⟩
  | fault x =>
    refine ⟨?_, ?_, ?_⟩ <;> rintro _ ⟨⟩
    rfl
  | refused x =>
    refine ⟨?_, ?_, ?_⟩ <;> rintro _ ⟨⟩
    rfl

/-! ### The ingress stage (R79) -/

theorem inputSlots_congr {m m' : Memory} (h : ∀ o, m.read o = m'.read o) (k n : Nat) :
    inputSlots m k n = inputSlots m' k n := by
  induction n generalizing k with
  | zero => rfl
  | succ n ih => rw [inputSlots, inputSlots, h, ih]

/-- A started command reads the same from inputs that agree: its outputs hold NONE (R98). -/
theorem SameInputs.read_beginCommand (h : SameInputs s s') (op : CmdOp) (o : Nat) :
    (s.beginCommand op).mem.read o = (s'.beginCommand op).mem.read o := by
  obtain ⟨-, -, -, -, hmem⟩ := h
  simp only [beginCommand_mem, Memory.read_clear]
  split
  case isTrue => rfl
  case isFalse ho => exact hmem o (Bool.eq_false_of_not_eq_true ho)

/-- The checks of R79 read IN_LEN, P_IN_DEPTH and the slots alone. -/
theorem withInputSlots_alike {α : Type} {g g' : α → State} {k k' : List Word → Result} (hp : s.params = s'.params)
    (hlen : s.inLen = s'.inLen) (hread : ∀ o, s.mem.read o = s'.mem.read o)
    (hk : ∀ vs, Alike g g' (k vs) (k' vs)) : Alike g g' (withInputSlots s k) (withInputSlots s' k') := by
  rw [withInputSlots, withInputSlots, hlen, hp]
  cases s'.inLen with
  | none => exact .fault _
  | some n =>
    simp only [inputSlots_congr hread]
    split_ifs
    · exact .refused _
    cases inputSlots s'.mem 0 n.toNat with
    | none => exact .fault _
    | some vs => exact hk vs

/-- The slots that two started commands read from inputs that agree. -/
theorem withInputSlots_begun_alike {α : Type} {g g' : α → State} {k k' : List Word → Result} (op : CmdOp)
    (hp : s.params = s'.params) (h : SameInputs s s') (hk : ∀ vs, Alike g g' (k vs) (k' vs)) :
    Alike g g' (withInputSlots (s.beginCommand op) k) (withInputSlots (s'.beginCommand op) k') :=
  have ⟨_, hlen, _⟩ := h
  withInputSlots_alike hp hlen (h.read_beginCommand op) hk

/-- What a command makes of its ingress stage: `out` of the frame, or the failure with every output NONE. -/
def commandGives (out : State → List Byte → State) (s : State) : Except StatusCode (List Byte) → State
  | .ok f => out s f
  | .error c => s.failEmpty c

/-- The state in which the ingress stage has fixed the frame of a started command. -/
def begunWithFrame (op : CmdOp) (s : State) (f : List Byte) : State := (s.beginCommand op).setFrame (.start op) f

theorem failCommand_begun (s : State) (op : CmdOp) (c : StatusCode) :
    failCommand c (s.beginCommand op) = .next (s.failEmpty c) :=
  (failCommand_running _ (beginCommand_engine s op)).trans (congrArg _ (failWith_begun s op _ c))

/-- A failure of the ingress stage is the same in both blocks. -/
theorem failCommand_alike (op : CmdOp) (c : StatusCode) :
    Alike (commandGives (begunWithFrame op) s) (commandGives (begunWithFrame op) s')
      (failCommand c (s.beginCommand op)) (failCommand c (s'.beginCommand op)) := by
  rw [failCommand_begun, failCommand_begun]
  exact .next (Except.error c)

theorem execInBytes_alike (op : CmdOp) (hp : s.params = s'.params) (h : SameInputs s s') :
    Alike (commandGives (begunWithFrame op) s) (commandGives (begunWithFrame op) s')
      (execInBytes (s.beginCommand op)) (execInBytes (s'.beginCommand op)) :=
  withInputSlots_begun_alike op hp h fun vs => .next (Except.ok (vs.map slotByte))

theorem execInHex_alike (op : CmdOp) (hp : s.params = s'.params) (h : SameInputs s s') :
    Alike (commandGives (begunWithFrame op) s) (commandGives (begunWithFrame op) s')
      (execInHex (s.beginCommand op)) (execInHex (s'.beginCommand op)) := by
  refine withInputSlots_begun_alike op hp h fun vs => ?_
  split_ifs
  · exact failCommand_alike op _
  · cases hexvals (hexChars vs) with
    | none => exact failCommand_alike op _
    | some ds => exact .next (Except.ok (pairDigits ds))

theorem execInWords_alike (op : CmdOp) (hp : s.params = s'.params) (h : SameInputs s s') :
    Alike (commandGives (begunWithFrame op) s) (commandGives (begunWithFrame op) s')
      (execInWords (s.beginCommand op)) (execInWords (s'.beginCommand op)) := by
  refine withInputSlots_begun_alike op hp h fun vs => ?_
  split_ifs
  · exact failCommand_alike op _
  · exact .next (Except.ok (vs.map slotByte))

/-- The ingress stage reads the input registers and P_IN_DEPTH alone (R79). -/
theorem ingress_alike (op : CmdOp) (hp : s.params = s'.params) (h : SameInputs s s') :
    Alike (commandGives (begunWithFrame op) s) (commandGives (begunWithFrame op) s')
      (ingress (s.beginCommand op)) (ingress (s'.beginCommand op)) := by
  have ⟨hmode, _⟩ := h
  simp only [ingress, beginCommand_inMode, hmode]
  cases s'.inMode with
  | none => exact .fault _
  | some m =>
    rcases bitVec2_cases m with rfl | rfl | rfl | rfl
    · exact execInBytes_alike op hp h
    · exact execInHex_alike op hp h
    · exact execInWords_alike op hp h
    · exact failCommand_alike op _

/-! ### The commands (R99, R108 to R110) -/

/-- A command that goes on from the frame of its ingress stage, and ends where that stage ends or stops. -/
structure FollowsIngress (op : CmdOp) (run : State → Result) (out : State → List Byte → State) : Prop where
  of_frame : ∀ {s f}, ingress (s.beginCommand op) = .next (begunWithFrame op s f) → run s = .next (out s f)
  of_stop : ∀ {s r}, ingress (s.beginCommand op) = r → (∀ k, r.andThen k = r) → run s = r

/-- Such a command answers alike where the ingress stage does. -/
theorem FollowsIngress.alike {op : CmdOp} {run : State → Result} {out : State → List Byte → State}
    (hrun : FollowsIngress op run out) (hp : s.params = s'.params) (h : SameInputs s s') :
    Alike (commandGives out s) (commandGives out s') (run s) (run s') := by
  have hin := ingress_alike op hp h
  generalize hr : ingress (s.beginCommand op) = r, hr' : ingress (s'.beginCommand op) = r' at hin
  cases hin with
  | next a =>
    cases a with
    | ok f =>
      rw [hrun.of_frame hr, hrun.of_frame hr']
      exact .next (Except.ok f)
    | error c =>
      rw [hrun.of_stop hr fun k => andThen_ended k rfl, hrun.of_stop hr' fun k => andThen_ended k rfl]
      exact .next (Except.error c)
  | fault x =>
    rw [hrun.of_stop hr fun _ => rfl, hrun.of_stop hr' fun _ => rfl]
    exact .fault x
  | refused x =>
    rw [hrun.of_stop hr fun _ => rfl, hrun.of_stop hr' fun _ => rfl]
    exact .refused x

theorem execDecodeFrame_followsIngress : FollowsIngress .decodeFrame execDecodeFrame
    fun s f => decodeOutcome s f (decodeReference s.params.regTable f) where
  of_frame := execDecodeFrame_of_frame
  of_stop h hstop := by simp only [execDecodeFrame, h, hstop]

theorem execCrcCheck_followsIngress : FollowsIngress .crcCheck execCrcCheck crcCheckOutcome where
  of_frame := execCrcCheck_of_frame
  of_stop h hstop := by simp only [execCrcCheck, h, hstop]

theorem failEmpty_sameOutputs (s s' : State) (c : StatusCode) : SameOutputs (s.failEmpty c) (s'.failEmpty c) :=
  decodeOutcome_sameOutputs s s' [] (.error c)

/-- Such a command has one outcome on inputs that agree, if the frame alone fixes the outputs. -/
theorem FollowsIngress.sameOutcome {op : CmdOp} {run : State → Result} {out : State → List Byte → State}
    (hrun : FollowsIngress op run out) (hp : s.params = s'.params) (h : SameInputs s s')
    (hout : ∀ f, SameOutputs (out s f) (out s' f)) : SameOutcome (run s) (run s') := by
  refine (hrun.alike hp h).sameOutcome fun r => ?_
  cases r with
  | ok f => exact hout f
  | error c => exact failEmpty_sameOutputs s s' c

/-- What REG_DECODE leaves that has read its operands (R109). -/
def regDecodeOutcome (s : State) (operands : Half × Half) : State :=
  (s.clearOutputs.publishEntries [regDecodeEntry s.params.regTable operands.1 operands.2 false]).endOk

theorem regDecodeOutcome_sameOutputs (hp : s.params = s'.params) (operands : Half × Half) :
    SameOutputs (regDecodeOutcome s operands) (regDecodeOutcome s' operands) := by
  unfold regDecodeOutcome
  rw [hp]
  exact ⟨rfl, rfl, rfl, rfl, rfl, rfl, rfl, rfl, fun _ ho => read_outputMemory_congr s.mem s'.mem [] [_] ho⟩

theorem execRegDecode_alike (h : SameInputs s s') :
    Alike (regDecodeOutcome s) (regDecodeOutcome s') (execRegDecode s) (execRegDecode s') := by
  obtain ⟨-, -, haddr, hraw, -⟩ := h
  cases ha : s.regAddr with
  | none =>
    rw [execRegDecode_of_missing (.inl ha), execRegDecode_of_missing (.inl (haddr ▸ ha))]
    exact .fault _
  | some a =>
    cases hr : s.regRaw with
    | none =>
      rw [execRegDecode_of_missing (.inr hr), execRegDecode_of_missing (.inr (hraw ▸ hr))]
      exact .fault _
    | some raw =>
      rw [execRegDecode_of_operands ha hr, execRegDecode_of_operands (haddr ▸ ha) (hraw ▸ hr)]
      exact .next (a, raw)

theorem execCmdReserved_alike :
    Alike (fun _ : Unit => s.failEmpty .badCommand) (fun _ => s'.failEmpty .badCommand) (execCmdReserved s)
      (execCmdReserved s') := by
  rw [execCmdReserved_eq, execCmdReserved_eq]
  exact .next ()

/-- Every command has one outcome on inputs that agree (R113, R143). -/
theorem exec_sameOutcome {i : Instr} (hi : i.format = .cmd) (hp : s.params = s'.params) (h : SameInputs s s') :
    SameOutcome (exec i s) (exec i s') := by
  cases i with
  | decodeFrame =>
    exact execDecodeFrame_followsIngress.sameOutcome hp h fun f => decodeReference_sameOutputs f hp
  | crcCheck => exact execCrcCheck_followsIngress.sameOutcome hp h (crcCheckOutcome_sameOutputs s s')
  | regDecode => exact (execRegDecode_alike h).sameOutcome (regDecodeOutcome_sameOutputs hp)
  | cmdReserved => exact execCmdReserved_alike.sameOutcome fun _ => failEmpty_sameOutputs s s' _
  | _ => cases hi

/-! ### What DECODE_FRAME keeps (R14, R135) -/

/-- A command writes no cell outside the output windows. -/
theorem read_outputMemory_of_input (m : Memory) (f : List Byte) {es : List Entry} (hes : es.length < entrySlots)
    {o : Nat} (ho : inOutputWindow o = false) : (outputMemory m f es).read o = m.read o := by
  have hes : es.length < 128 := hes
  have hoff : ¬ (0x1000 ≤ o ∧ o < 0x1800) ∧ o < 0x4000 := by
    simpa [inOutputWindow, inEntryWindow, inFrameWindow] using ho
  rw [outputMemory, Memory.read_writeWords_other, Memory.read_writeWords_below, Memory.read_clear, ho]
  · rfl
  · unfold frameBufOffset
    omega
  · rw [entryWords_length]
    unfold entryOffset
    omega

/-- What a command keeps: the input registers, all that is no register, and the canonical memory; no command runs on. -/
structure CommandKeeps (s t : State) : Prop where
  inputs : SameInputs s t
  outside : SameOutside s t
  ended : t.engine = none
  canonical : s.mem.wf = true → t.mem.wf = true

theorem CommandLeaves.keeps {f : List Byte} {es : List Entry} (h : CommandLeaves s t f es)
    (hmode : s.inMode = t.inMode) (hlen : s.inLen = t.inLen) (haddr : s.regAddr = t.regAddr)
    (hraw : s.regRaw = t.regRaw) (hpending : s.pending = t.pending) (hlog : s.readLog = t.readLog)
    (hheld : s.resetHeld = t.resetHeld) : CommandKeeps s t where
  inputs := ⟨hmode, hlen, haddr, hraw, fun o ho => by
    rw [h.mem_eq, read_outputMemory_of_input s.mem f h.entries_fit ho]⟩
  outside := ⟨h.params_eq.symm, hpending, hlog, hheld⟩
  ended := h.engine_eq
  canonical hwf := h.mem_eq ▸ outputMemory_wf f es hwf

theorem execDecodeFrame_keeps (h : execDecodeFrame s = .next t) : CommandKeeps s t := by
  rcases execDecodeFrame_ends h with ⟨c, -, rfl⟩ | ⟨f, es, x, hf, hdec, rfl⟩
  · exact (commandLeaves_failEmpty s c).keeps rfl rfl rfl rfl rfl rfl rfl
  · refine (commandLeaves_decoded hf hdec).keeps ?_ ?_ ?_ ?_ ?_ ?_ ?_ <;> simp [decodeOutcome]

/-- Two states with canonical memories that agree in every part are one. -/
theorem State.eq_of_same (hout : SameOutputs s t) (hin : SameInputs s t) (houtside : SameOutside s t)
    (hengine : s.engine = t.engine) (hs : s.mem.wf = true) (ht : t.mem.wf = true) : s = t := by
  obtain ⟨hstatus, hslave, hfunc, hexc, hlen, hcalc, hrecv, hcount, houtMem⟩ := hout
  obtain ⟨hmode, hinLen, haddr, hraw, hinMem⟩ := hin
  obtain ⟨hparams, hpending, hlog, hheld⟩ := houtside
  have hmem : s.mem = t.mem := Memory.ext_read hs ht fun o => by
    cases ho : inOutputWindow o with
    | true => exact houtMem o ho
    | false => exact hinMem o ho
  cases s
  cases t
  rw [State.mk.injEq]
  exact ⟨hparams, hpending, hlog, hheld, hstatus, hmode, hinLen, haddr, hraw, hslave, hfunc, hexc, hlen, hcalc, hrecv,
    hcount, hmem, hengine⟩

end Sys2Proof.Machine

open Sys2Proof Sys2Proof.Machine

/-- Settles O54. -/
theorem commandsDependOnInputsOnly : Obligations.CommandsDependOnInputsOnly :=
  fun _ _ _ hi hp h => exec_sameOutcome hi hp h

/-- Settles O55: the second run reads the same inputs, so it gives the same outputs and keeps all the rest. -/
theorem decodeFrameIsIdempotent : Obligations.DecodeFrameIsIdempotent := by
  intro s t hwf h
  have first : CommandKeeps s t := execDecodeFrame_keeps h
  obtain ⟨again, -, -⟩ := exec_sameOutcome (i := .decodeFrame) rfl first.outside.1 first.inputs
  obtain ⟨t', h', hout⟩ := again t h
  have second : CommandKeeps t t' := execDecodeFrame_keeps h'
  have hwf' := first.canonical hwf
  rw [h', State.eq_of_same hout second.inputs second.outside (first.ended.trans second.ended.symm) hwf'
    (second.canonical hwf')]

end

section
/-! PROOFS about the value decoder (43_regdecode.md R119 to R127, R132, R133): the entry each variant appends, what a
table's scales can change, and the rounding of a scaled value. -/

namespace Sys2Proof.Machine

/-! ### The variants (R119) -/

theorem setEngine_self {s : State} {w : Working} (h : s.engine = some w) : s.setEngine w = s := by
  rw [State.setEngine, ← h]

/-- A variant's address has a descriptor, so the entry made from `base` joins the list (R119). -/
theorem appendKnown_of_lookup {s : State} {w : Working} {a : Half} {j : Nat} {d : Descriptor}
    (f : Entry → Descriptor → Entry) (h : s.engine = some w) (hl : lookup s.params.regTable a = some (j, d)) :
    appendKnown s a f = .next (s.pushEntry w (f (baseEntry j d a w.raw w.write) d)) := by
  rw [appendKnown, withRunning_some _ h, hl]

theorem execUnknown_of_none {s : State} {w : Working} {a : Half} (h : s.engine = some w)
    (hl : lookup s.params.regTable a = none) : execUnknown a s = .next (s.pushEntry w (unknownEntry a w.raw)) := by
  rw [execUnknown, withRunning_some _ h, hl]

/-- The variant the engine's operands select appends the entry of RegDecode (R119, R132). -/
theorem runVariant_running {s : State} {w : Working} (a : Half) (h : s.engine = some w) :
    runVariant a s = .next (s.pushEntry w (regDecodeEntry s.params.regTable a w.raw w.write)) :=
  calc runVariant a s
    _ = runRegDecode a w.raw w.write s := by rw [runRegDecode, withRunning_some _ h, setEngine_self h]
    _ = .next (s.pushEntry w (regDecodeEntry s.params.regTable a w.raw w.write)) := runRegDecode_running _ _ _ h

/-! ### Texts and flags (R34, R123) -/

/-- ERRTXT with its text numbers written out (R34). -/
theorem errTxt_id (r : Half) : (errTxt r).id = BitVec.ofNat 8 (if r.toNat ≤ 16 then r.toNat else 17) := by
  unfold errTxt
  split_ifs <;> rfl

/-- CARRIER with its text numbers written out (R34). -/
theorem carrierTxt_id (r : Half) : (carrierTxt r).id = if r = 72 then 39 else 40 := by
  unfold carrierTxt
  split_ifs <;> rfl

/-- CMDTXT with its text numbers written out (R34). -/
theorem cmdTxt_id (r : Half) :
    (cmdTxt r).id = if r = 0 then 18 else if r = 1 then 19 else if r = 4 then 20 else if r = 17 then 21 else 22 := by
  unfold cmdTxt
  split_ifs <;> rfl

/-- MRTXT with its text numbers written out; a template is named by its number alone (R12, R34). -/
theorem mrTxt_id (r : Half) :
    (mrTxt r).id = if r = 6 then 23 else if r = 10 then 24 else if r = 16 then 25 else if r = 25 then 26 else 27 := by
  unfold mrTxt
  split_ifs <;> rfl

theorem getLsbD_zero_eq_decide (r : Half) : r.getLsbD 0 = decide (r.toNat % 2 = 1) :=
  Nat.testBit_zero r.toNat

theorem getLsbD_one_eq_decide (r : Half) : r.getLsbD 1 = decide (r.toNat / 2 % 2 = 1) :=
  Nat.testBit_eq_decide_div_mod_eq

/-! ### Scales (R133) -/

/-- A table with other scales has the same addresses, so a lookup finds the same position (R36). -/
theorem lookupFrom_map_scale (g : Descriptor → Option Scale) (tab : RegTable) (k : Nat) (a : Half) :
    lookupFrom k (tab.map fun d => { d with scale := g d }) a =
      (lookupFrom k tab a).map fun p => (p.1, { p.2 with scale := g p.2 }) := by
  induction tab generalizing k with
  | nil => rfl
  | cons d rest ih =>
    simp only [List.map_cons, lookupFrom]
    split
    case isTrue => rfl
    case isFalse => exact ih (k + 1)

theorem lookup_map_scale (g : Descriptor → Option Scale) (tab : RegTable) (a : Half) :
    lookup (tab.map fun d => { d with scale := g d }) a =
      (lookup tab a).map fun p => (p.1, { p.2 with scale := g p.2 }) :=
  lookupFrom_map_scale g tab 0 a

/-- At an override address nothing of the descriptor is read beyond `base` (R122 to R126). -/
theorem knownEntry_congr_of_override {b : Entry} (d d' : Descriptor)
    (h : overrideAddresses.contains b.address = true) : knownEntry b d = knownEntry b d' := by
  unfold knownEntry
  split_ifs with herror hstatus hcarrier hrange hcommand
  iterate 5 · rfl
  · have hgeneric := (not_override_iff b.address).2 ⟨herror, hstatus, hcarrier, hrange, hcommand⟩
    exact absurd (h.symm.trans hgeneric) (by decide)

/-! ### Rounding (R120, R121) -/

/-- The quotient is within half a unit of `p / q`; an exact half goes to the larger of the two neighbours (R121). -/
theorem roundHalfUp_nearest (p : Nat) {q : Nat} (hq : 1 ≤ q) :
    2 * q * roundHalfUp p q ≤ 2 * p + q ∧ 2 * p + q < 2 * q * (roundHalfUp p q + 1) :=
  ⟨Nat.mul_div_le _ _, Nat.lt_mul_div_succ _ (by omega)⟩

theorem roundHalfUp_le (p : Nat) {q : Nat} (hq : 1 ≤ q) : roundHalfUp p q ≤ p := by
  have hp : p ≤ q * p := Nat.le_mul_of_pos_left p hq
  have hlt : 2 * p + q < 2 * q * (p + 1) := by
    rw [Nat.mul_add, Nat.mul_assoc]
    omega
  exact Nat.lt_succ_iff.1 (Nat.div_lt_of_lt_mul hlt)

/-- The largest raw value under the largest numerator, not divided, is below 2^48 (R30, R120). -/
theorem scaledMilli_lt {d : Descriptor} (h : legalScale d = true) (raw : Half) :
    scaledMilli d.scale raw < 2 ^ 48 := by
  have hraw := raw.isLt
  unfold legalScale at h
  unfold scaledMilli
  cases hscale : d.scale with
  | none =>
    simp only
    omega
  | some sc =>
    have hden : 1 ≤ sc.den.toNat := by
      rw [hscale] at h
      simp only [Bool.and_eq_true, decide_eq_true_eq] at h
      exact h.2
    calc roundHalfUp (raw.toNat * sc.num.toNat * 1000) sc.den.toNat
      _ ≤ raw.toNat * sc.num.toNat * 1000 := roundHalfUp_le _ hden
      _ ≤ 2 ^ 16 * 2 ^ 16 * 1000 := Nat.mul_le_mul_right _ (Nat.mul_le_mul hraw.le sc.num.isLt.le)
      _ < 2 ^ 48 := by decide

end Sys2Proof.Machine

open Sys2Proof Sys2Proof.Machine

/-- Settles O43: the decoder selects the variant that RegDecode runs. -/
theorem regDecodeIsTotal : Obligations.RegDecodeIsTotal := by
  intro s w a hw
  rw [decode, ← runVariant_eq_exec, runVariant_running a hw]
  rfl

/-- Settles O44: the lookup finds the same position, and the variant found reads no scale. -/
theorem overridesIgnoreTheScale : Obligations.OverridesIgnoreTheScale := by
  intro tab g a raw write ha
  rw [regDecodeEntry, regDecodeEntry, lookup_map_scale]
  cases hl : lookup tab a with
  | none => rfl
  | some p =>
    rcases ha with hoverride | hnone
    · exact knownEntry_congr_of_override (b := baseEntry p.1 p.2 a raw write) _ _ (List.contains_iff_mem.2 hoverride)
    · exact absurd (hl.symm.trans hnone) (Option.some_ne_none p)

/-- Settles O45: both bounds are those of the integer quotient; the quotient is no larger than its dividend. -/
theorem scaledValueIsNearestAndFits : Obligations.ScaledValueIsNearestAndFits := by
  refine ⟨fun p _ hq => roundHalfUp_nearest p hq, fun b d hd => ?fits⟩
  case fits => rw [genericEntry, BitVec.toNat_ofNat, Nat.mod_eq_of_lt (scaledMilli_lt hd b.raw)]

/-- Settles O36. -/
theorem errorCodeEntryOfRaw : Obligations.ErrorCodeEntryOfRaw := by
  intro s w j d hw hl
  rw [← errTxt_id]
  exact appendKnown_of_lookup (fun b _ => errorCodeEntry b) hw hl

/-- Settles O37. -/
theorem statusFlagsEntryOfRaw : Obligations.StatusFlagsEntryOfRaw := by
  intro s w j d hw hl
  rw [← getLsbD_zero_eq_decide, ← getLsbD_one_eq_decide]
  exact appendKnown_of_lookup (fun b _ => statusFlagsEntry b) hw hl

/-- Settles O38. -/
theorem carrierFreqEntryOfRaw : Obligations.CarrierFreqEntryOfRaw := by
  intro s w j d hw hl
  rw [← carrierTxt_id]
  exact appendKnown_of_lookup (fun b _ => carrierEntry b) hw hl

/-- Settles O39. -/
theorem statusCmdEntryOfRaw : Obligations.StatusCmdEntryOfRaw := by
  intro s w j d hw hl
  rw [← cmdTxt_id]
  exact appendKnown_of_lookup (fun b _ => statusCmdEntry b) hw hl

/-- Settles O40. -/
theorem measRangeEntryOfRaw : Obligations.MeasRangeEntryOfRaw := by
  intro s w j d hw hl
  rw [← mrTxt_id]
  exact appendKnown_of_lookup (fun b _ => measRangeEntry b) hw hl

/-- Settles O41: one descriptor without a scale, one with. -/
theorem genericEntryOfRaw : Obligations.GenericEntryOfRaw := by
  intro s w a j d hw hl
  refine (appendKnown_of_lookup genericEntry hw hl).trans ?_
  obtain ⟨address, name, unit, description, readOnly, scale⟩ := d
  cases scale with
  | none => rfl
  | some sc => rfl

/-- Settles O42. -/
theorem unknownEntryOfRaw : Obligations.UnknownEntryOfRaw :=
  fun _ _ _ hw hl => execUnknown_of_none hw hl

end

section
/-! PROOFS about what every command keeps (10_state.md R14, R37, 60_exceptions.md R135, R150, 70_reset_and_hazards.md
R154): the parts of a state that are no output, read off from what each command leaves. -/

namespace Sys2Proof.Machine

variable {s t : State}

/-- A typed failure keeps the inputs and the outside (R135). -/
theorem failEmpty_keeps (s : State) (c : StatusCode) : CommandKeeps s (s.failEmpty c) :=
  (commandLeaves_failEmpty s c).keeps rfl rfl rfl rfl rfl rfl rfl

/-- The outcomes of CRC_CHECK for one frame differ in the checksum registers and STATUS alone (R108). -/
theorem crcCheckOutcome_eq (s : State) (f : List Byte) : ∃ x y c, crcCheckOutcome s f =
    { s.clearOutputs.publishFrame f with crcCalc := x, crcRecv := y, status := c, engine := none } := by
  unfold crcCheckOutcome
  split_ifs
  case pos hshort => exact ⟨none, none, .checksum, rfl⟩
  case pos hlong hpass => exact ⟨_, _, .ok, rfl⟩
  case neg hlong hfail => exact ⟨_, _, .checksum, rfl⟩

theorem execCrcCheck_keeps (h : execCrcCheck s = .next t) : CommandKeeps s t := by
  rcases execCrcCheck_next h with ⟨c, -, rfl⟩ | ⟨f, hf, rfl⟩
  · exact failEmpty_keeps s c
  · have hleaves : CommandLeaves s (crcCheckOutcome s f) f [] := commandLeaves_crcChecked hf
    obtain ⟨x, y, c, heq⟩ := crcCheckOutcome_eq s f
    rw [heq] at hleaves ⊢
    exact hleaves.keeps rfl rfl rfl rfl rfl rfl rfl

theorem execRegDecode_keeps (h : execRegDecode s = .next t) : CommandKeeps s t := by
  obtain ⟨a, raw, rfl⟩ := execRegDecode_next h
  exact (commandLeaves_registerDecoded s a raw).keeps rfl rfl rfl rfl rfl rfl rfl

theorem execCmdReserved_keeps (h : execCmdReserved s = .next t) : CommandKeeps s t := by
  cases (execCmdReserved_eq s).symm.trans h
  exact failEmpty_keeps s .badCommand

/-- Every command keeps the inputs and the outside, and ends in its own step (R135, R150, R154). -/
theorem exec_keeps {i : Instr} (hi : i.format = .cmd) (h : exec i s = .next t) : CommandKeeps s t := by
  cases i with
  | decodeFrame => exact execDecodeFrame_keeps h
  | crcCheck => exact execCrcCheck_keeps h
  | regDecode => exact execRegDecode_keeps h
  | cmdReserved => exact execCmdReserved_keeps h
  | _ => cases hi

end Sys2Proof.Machine

open Sys2Proof Sys2Proof.Machine

/-- Settles O53: what the four commands keep, forgetting that they keep memory canonical. -/
theorem commandsKeepTheInputs : Obligations.CommandsKeepTheInputs := by
  intro s t i hi h
  have keeps : CommandKeeps s t := exec_keeps hi h
  exact ⟨keeps.inputs, keeps.outside, keeps.ended⟩

end

section
/-! PROOFS about reset (70_reset_and_hazards.md R151, R152): what the registers hold right after it, and what the two
events that meet an asserted reset, its release and a host access, do. -/

namespace Sys2Proof.Machine

variable {s : State}

/-! ### The registers right after reset (R151) -/

theorem readReg_resetWith_status (p : Params) : readReg (State.resetWith p) .status = some 0 := rfl

/-- The scalar registers hold NONE field by field, and the three windows because the memory lists no cell. -/
theorem readReg_resetWith_of_ne_status (p : Params) {r : RegName} (hr : r ≠ .status) :
    readReg (State.resetWith p) r = none := by
  cases r with
  | status => exact absurd rfl hr
  | entry k w => exact Memory.read_empty (entryOffset k w)
  | inBuf k => exact Memory.read_empty (inBufOffset k)
  | frameBuf k => exact Memory.read_empty (frameBufOffset k)
  | _ => rfl

/-! ### The events that meet an asserted reset (R151) -/

/-- A step with an event pending takes that event (R54). -/
theorem step_of_pending {e : HostEvent} {rest : List HostEvent} (h : s.pending = e :: rest) :
    step s = hostEvent exec e { s with pending := rest } := by
  rw [step, takeEvent, h]

theorem hostEvent_access_of_held {run : Instr → State → Result} (a : BusAccess) (h : s.resetHeld = true) :
    hostEvent run (.access a) s = .refused .heldInReset :=
  if_pos h

theorem hostEvent_releaseReset_of_held {run : Instr → State → Result} (h : s.resetHeld = true) :
    hostEvent run .releaseReset s = .next s.releaseReset := by
  rw [hostEvent, if_pos h]

end Sys2Proof.Machine

open Sys2Proof Sys2Proof.Machine

/-- Settles O13: the registers one by one; the other fields are those `State.resetWith` names. -/
theorem resetLeavesOnlyStatus : Obligations.ResetLeavesOnlyStatus :=
  fun p => ⟨readReg_resetWith_status p, fun _ => readReg_resetWith_of_ne_status p, rfl, rfl, rfl⟩

/-- Settles O14: the step takes the releasing edge, and the release builds the block again from its own parameters. -/
theorem releasedResetIsTheResetState : Obligations.ReleasedResetIsTheResetState := by
  intro s rest hheld hpending
  calc step s
      = hostEvent exec .releaseReset { s with pending := rest } := step_of_pending hpending
    _ = .next { s with pending := rest }.releaseReset :=
        hostEvent_releaseReset_of_held (s := { s with pending := rest }) hheld
    _ = .next { State.resetWith s.params with pending := rest, readLog := s.readLog } := rfl

/-- Settles O15: taking the access leaves the reset line asserted, so it is refused before the bus looks at it. -/
theorem heldBlockAcceptsNoAccess : Obligations.HeldBlockAcceptsNoAccess := by
  intro s a rest hheld hpending
  rw [step_of_pending hpending]
  exact hostEvent_access_of_held (s := { s with pending := rest }) a hheld

end

section
/-! PROOFS about the canonical form of the memory (20_memory.md R45, R47; the form is assumption 6): every way a step
can end leaves the memory as it was, emptied, with one word stored, or with the outputs of a command. -/

namespace Sys2Proof.Machine

variable {s t : State}

theorem CommandLeaves.wf {f : List Byte} {es : List Entry} (h : CommandLeaves s t f es) (hs : s.mem.wf = true) :
    t.mem.wf = true := by
  rw [h.mem_eq]
  exact outputMemory_wf f es hs

/-- Of the registers the host can store in, IN_BUF alone is memory (R31). -/
theorem wf_storeReg (r : RegName) (v : Word) (hs : s.mem.wf = true) : (storeReg s r v).mem.wf = true := by
  cases r with
  | inBuf k => exact Memory.wf_write s.mem (inBufOffset k) v hs
  | _ => exact hs

theorem StepLeaves.wf (h : StepLeaves s t) (hs : s.mem.wf = true) : t.mem.wf = true := by
  cases h with
  | idle | assertReset | releaseRunning | read => exact hs
  | releaseReset => exact Memory.wf_empty
  | store rest r v => exact wf_storeReg (s := { s with pending := rest }) r v hs
  | command rest _ f es ht => exact ht.wf hs

end Sys2Proof.Machine

open Sys2Proof Sys2Proof.Machine

/-- Settles O18: by what a step can leave. -/
theorem stepKeepsMemoryCanonical : Obligations.StepKeepsMemoryCanonical :=
  fun _ _ hs h => (step_leaves h).wf hs

end

section
/-! PROOFS about words written out (30_encoding.md R59, R60, R69, R70): a word selects the instruction whose encoding
has the same significant bits. -/

namespace Sys2Proof.Machine

/-- A word whose significant bits are the encoding of a well-formed instruction selects that instruction (R72). -/
theorem decode_of_significant_eq {tab : RegTable} {c : Code} {i : Instr} (hi : WellFormed tab i = true)
    (hc : c.significant = encode i) : decode tab c = i :=
  calc decode tab c
      = decode tab (encode (decode tab c)) := (decode_encode (wellFormed_decode tab c)).symm
    _ = decode tab (encode i) := by rw [encode_decode, hc]
    _ = i := decode_encode hi

end Sys2Proof.Machine

open Sys2Proof Sys2Proof.Machine

/-- Settles O4: two words have ignored bits set, the other eight are encodings; only the register addresses ask the
table. -/
theorem sampleWordsDecodeToTheirRows : Obligations.SampleWordsDecodeToTheirRows := by
  have hcommand : described fix20 0x1001 = true := by decide
  have hfrequency : described fix20 0x0001 = true := by decide
  have habsent : described fix20 0x0008 = false := by decide
  refine ⟨?regDecode, decode_encode (i := .cmdReserved) rfl, decode_encode (i := .inHex) rfl, ?inReserved,
    decode_encode (i := .rhr) rfl, decode_encode (i := .exc) rfl, decode_encode (i := .other 0x86) rfl,
    decode_encode (i := .statusCmd) hcommand, decodeAddr_undescribed habsent,
    decodeAddr_described hfrequency⟩
  case regDecode => exact decode_of_significant_eq rfl (by decide)
  case inReserved => exact decode_of_significant_eq rfl (by decide)

end
